-- ==== Sys2Proof/Word.lean ====
section
/-! DEFINITION. The value types of LEA-CORE (`00_scope.md` R8, glossary; `10_state.md` R12): byte, word,
round key and key schedule. `+` and `-` on a `Word` are modulo 2^32 (R9), which is what `BitVec` does. -/

namespace Sys2Proof

/-- A byte, an unsigned integer in 0..255 (R8). -/
abbrev Byte := BitVec 8

/-- A word: "32-bit unsigned integer; the cipher's native arithmetic unit" (R8). -/
abbrev Word := BitVec 32

/-- A round key: "fixed sequence of exactly 6 words, regardless of key size" (R14). -/
abbrev RoundKey := Vector Word 6

/-- A key schedule: "ordered sequence of RoundKeys, length Nr" (R12). -/
abbrev KeySchedule := List RoundKey

end Sys2Proof
end

