-- ==== Sys2Proof/Syntax.lean ====
section
/-! DEFINITION. The commands of LEA-CORE (`30_encoding.md` R43 to R46), one constructor per row of the opcode map R45,
and the assembler's lines (R49, R50). A command's operands are the fields of the command word, each a bit
vector of exactly the width R43 gives it; the data operand `WDATA` travels beside the word (R42) and is no part
of the instruction. -/

namespace Sys2Proof

/-- The 22 commands, in the order of the opcode map (`30_encoding.md` R45). Fields as R44 names them: `a` a byte
offset, `j` a word index, `k` a round-key word index, `i` a schedule row, `r` a rotation amount, `klen` a key
length in bytes, `dir` a direction. -/
inductive Instr
  | nop
  | rdst
  | clre
  | wrkb (a : BitVec 5)
  | rdkb (a : BitVec 5)
  | wrbb (a : BitVec 4)
  | rdbb (a : BitVec 4)
  | wrx (j : BitVec 2)
  | rdx (j : BitVec 2)
  | wrrk (k : BitVec 3)
  | rdrk (k : BitVec 3)
  | ldrk (i : BitVec 5)
  | rdsk (i : BitVec 5) (k : BitVec 3)
  | b2w (j : BitVec 2)
  | w2b (j : BitVec 2)
  | rol (j : BitVec 2) (r : BitVec 8)
  | ror (j : BitVec 2) (r : BitVec 8)
  | ksched (klen : BitVec 6) (dir : BitVec 2)
  | encr
  | decr
  | encb
  | decb
  deriving DecidableEq, Repr

/-- The names an assembler line may begin with: the 22 commands (R49) and the five pseudo-commands (R50). -/
inductive Mnemonic
  | nop | rdst | clre | wrkb | rdkb | wrbb | rdbb | wrx | rdx | wrrk | rdrk | ldrk | rdsk
  | b2w | w2b | rol | ror | ksched | encr | decr | encb | decb
  | ks128 | ks192 | ks256 | b2wAll | w2bAll
  deriving DecidableEq, Repr

/-- One assembler line (R49): its mnemonic, its integer operands in the order they are written (`RDSK i, k`,
`ROL j, r`, `KSCHED klen, dir`) and the data operand after `#`, where there is one. The integers are not yet
known to fit their fields: that is what `AsmLine.wellFormed` checks. -/
structure AsmLine where
  mnemonic : Mnemonic
  operands : List Nat
  data : Option Nat
  deriving DecidableEq, Repr

end Sys2Proof
end

