-- ==== Sys2Proof/WellFormed.lean ====
section
/-! DEFINITION. What it takes for a term to be encodable. An `Instr` carries its well-formedness in its operands'
widths (`30_encoding.md` R43), so every one is well formed (`Instr.wellFormed_all`): values that exist in the encoding
but not in the hardware decode and fail in execution (R46). An `AsmLine` holds plain integers, and the
checks that "the assembler refuses an operand that does not fit its field" (R49) are here. -/

namespace Sys2Proof

/-- The operand fields of an instruction: each field's value with its width in bits (R43). -/
def Instr.fields : Instr → List (Nat × Nat)
  | .nop | .rdst | .clre | .encr | .decr | .encb | .decb => []
  | .wrkb a | .rdkb a | .ldrk a => [(a.toNat, 5)]
  | .wrbb a | .rdbb a => [(a.toNat, 4)]
  | .wrx j | .rdx j | .b2w j | .w2b j => [(j.toNat, 2)]
  | .wrrk k | .rdrk k => [(k.toNat, 3)]
  | .rdsk i k => [(i.toNat, 5), (k.toNat, 3)]
  | .rol j r | .ror j r => [(j.toNat, 2), (r.toNat, 8)]
  | .ksched klen dir => [(klen.toNat, 6), (dir.toNat, 2)]

/-- Every operand fits its field (R43, R44). -/
abbrev Instr.WellFormed (i : Instr) : Prop := ∀ f ∈ i.fields, f.1 < 2 ^ f.2

/-- No instruction is ill formed: the operand types are as wide as the fields. -/
theorem Instr.wellFormed_all (i : Instr) : i.WellFormed := by
  cases i <;> simp [Instr.WellFormed, Instr.fields] <;> omega

/-- The widths of a line's operands, in the order they are written (R43, R49, R50). -/
def Mnemonic.operandWidths : Mnemonic → List Nat
  | .nop | .rdst | .clre | .encr | .decr | .encb | .decb | .b2wAll | .w2bAll => []
  | .wrkb | .rdkb | .ldrk => [5]
  | .wrbb | .rdbb => [4]
  | .wrx | .rdx | .b2w | .w2b => [2]
  | .wrrk | .rdrk => [3]
  | .rdsk => [5, 3]
  | .rol | .ror => [2, 8]
  | .ksched => [6, 2]
  | .ks128 | .ks192 | .ks256 => [2]

/-- "The four write commands carry their data operand after `#`" (R49), and no other line does. -/
def Mnemonic.takesData : Mnemonic → Bool
  | .wrkb | .wrbb | .wrx | .wrrk => true
  | _ => false

/-- The line has as many operands as its form has, and each fits its field. -/
def operandsFit : List Nat → List Nat → Bool
  | [], [] => true
  | v :: vs, w :: ws => decide (v < 2 ^ w) && operandsFit vs ws
  | _, _ => false

/-- The line carries a data operand exactly where its form has one, and it fits `WDATA[31:0]`. DEDUCED (log entry 10): R49
writes `#byte` for `WRKB` and `WRBB`, and program P4 of `95_test_vectors.md` assembles `WRBB 0, #0xAABBCC78` with all 32 bits
in `WDATA`, so a byte write's data may be any value of 32 bits. -/
def dataFits : Option Nat → Bool → Bool
  | none, false => true
  | some v, true => decide (v < 2 ^ 32)
  | _, _ => false

/-- The assembler accepts the line: "The assembler refuses an operand that does not fit its field; it does not refuse
`k` = 6, 7, `klen` outside 16, 24, 32 or `dir` = 2, 3, which are encodable" (R49). -/
def AsmLine.wellFormed (l : AsmLine) : Bool :=
  operandsFit l.operands l.mnemonic.operandWidths && dataFits l.data l.mnemonic.takesData

end Sys2Proof
end

