-- ==== Sys2Proof/Decode.lean ====
section
/-! DEFINITION. Decoding and encoding of the command word `C[15:0]` (`30_encoding.md` R43 to R48, `opcode_table.json`).
Decoding is total: every 16-bit word is exactly one of the 22 commands or illegal (R46). The command word arrives
whole on the port (`20_memory.md` R28), so there is no byte order to fix. -/

namespace Sys2Proof

/-- Why a command word is illegal (`30_encoding.md` R47). -/
inductive DecodeError
  /-- The opcode `C[15:11]` is one of the ten reserved values. -/
  | reservedOpcode
  /-- The opcode is assigned and a bit the command's format reserves is 1. -/
  | reservedBit
  deriving DecidableEq, Repr

/-- The opcode `C[15:11]` (R43). -/
def opcode (C : BitVec 16) : BitVec 5 := C.extractLsb' 11 5

/-- The ten reserved opcodes (R47). -/
def reservedOpcodes : List (BitVec 5) :=
  [0x03, 0x0E, 0x0F, 0x15, 0x1A, 0x1B, 0x1C, 0x1D, 0x1E, 0x1F]

/-- A row of the opcode map (R45): the values the table calls `match` and `mask`, and how the operand fields are taken
from a word that is this command (R43). -/
structure OpcodeRow where
  pattern : BitVec 16
  mask : BitVec 16
  build : BitVec 16 → Instr

/-- The opcode map, 22 rows (R45), with the fields of the nine formats (R43): A5 `a = C[4:0]`; A4 `a = C[3:0]`; J
`j = C[1:0]`; W `k = C[2:0]`; I `i = C[4:0]`; S `i = C[7:3]`, `k = C[2:0]`; R `j = C[9:8]`, `r = C[7:0]`; K `dir = C[7:6]`,
`klen = C[5:0]`. -/
def opcodeMap : List OpcodeRow :=
  [ ⟨0x0000, 0xFFFF, fun _ => .nop⟩,
    ⟨0x0800, 0xFFFF, fun _ => .rdst⟩,
    ⟨0x1000, 0xFFFF, fun _ => .clre⟩,
    ⟨0x2000, 0xFFE0, fun C => .wrkb (C.extractLsb' 0 5)⟩,
    ⟨0x2800, 0xFFE0, fun C => .rdkb (C.extractLsb' 0 5)⟩,
    ⟨0x3000, 0xFFF0, fun C => .wrbb (C.extractLsb' 0 4)⟩,
    ⟨0x3800, 0xFFF0, fun C => .rdbb (C.extractLsb' 0 4)⟩,
    ⟨0x4000, 0xFFFC, fun C => .wrx (C.extractLsb' 0 2)⟩,
    ⟨0x4800, 0xFFFC, fun C => .rdx (C.extractLsb' 0 2)⟩,
    ⟨0x5000, 0xFFF8, fun C => .wrrk (C.extractLsb' 0 3)⟩,
    ⟨0x5800, 0xFFF8, fun C => .rdrk (C.extractLsb' 0 3)⟩,
    ⟨0x6000, 0xFFE0, fun C => .ldrk (C.extractLsb' 0 5)⟩,
    ⟨0x6800, 0xFF00, fun C => .rdsk (C.extractLsb' 3 5) (C.extractLsb' 0 3)⟩,
    ⟨0x8000, 0xFFFC, fun C => .b2w (C.extractLsb' 0 2)⟩,
    ⟨0x8800, 0xFFFC, fun C => .w2b (C.extractLsb' 0 2)⟩,
    ⟨0x9000, 0xFC00, fun C => .rol (C.extractLsb' 8 2) (C.extractLsb' 0 8)⟩,
    ⟨0x9800, 0xFC00, fun C => .ror (C.extractLsb' 8 2) (C.extractLsb' 0 8)⟩,
    ⟨0xA000, 0xFF00, fun C => .ksched (C.extractLsb' 0 6) (C.extractLsb' 6 2)⟩,
    ⟨0xB000, 0xFFFF, fun _ => .encr⟩,
    ⟨0xB800, 0xFFFF, fun _ => .decr⟩,
    ⟨0xC000, 0xFFFF, fun _ => .encb⟩,
    ⟨0xC800, 0xFFFF, fun _ => .decb⟩ ]

/-- `decode` of R46: the first row that matches, and illegal where none does. -/
def decode (C : BitVec 16) : Except DecodeError Instr :=
  match opcodeMap.find? (fun row => C &&& row.mask == row.pattern) with
  | some row => .ok (row.build C)
  | none => .error (if opcode C ∈ reservedOpcodes then .reservedOpcode else .reservedBit)

/-- The command word of an instruction, laid out field by field from the nine formats of R43: the opcode in `C[15:11]`,
zeros in the reserved bits, the fields in their places. -/
def encode : Instr → BitVec 16
  | .nop => 0x00#5 ++ 0#11
  | .rdst => 0x01#5 ++ 0#11
  | .clre => 0x02#5 ++ 0#11
  | .wrkb a => 0x04#5 ++ 0#6 ++ a
  | .rdkb a => 0x05#5 ++ 0#6 ++ a
  | .wrbb a => 0x06#5 ++ 0#7 ++ a
  | .rdbb a => 0x07#5 ++ 0#7 ++ a
  | .wrx j => 0x08#5 ++ 0#9 ++ j
  | .rdx j => 0x09#5 ++ 0#9 ++ j
  | .wrrk k => 0x0A#5 ++ 0#8 ++ k
  | .rdrk k => 0x0B#5 ++ 0#8 ++ k
  | .ldrk i => 0x0C#5 ++ 0#6 ++ i
  | .rdsk i k => 0x0D#5 ++ 0#3 ++ i ++ k
  | .b2w j => 0x10#5 ++ 0#9 ++ j
  | .w2b j => 0x11#5 ++ 0#9 ++ j
  | .rol j r => 0x12#5 ++ 0#1 ++ j ++ r
  | .ror j r => 0x13#5 ++ 0#1 ++ j ++ r
  | .ksched klen dir => 0x14#5 ++ 0#3 ++ dir ++ klen
  | .encr => 0x16#5 ++ 0#11
  | .decr => 0x17#5 ++ 0#11
  | .encb => 0x18#5 ++ 0#11
  | .decb => 0x19#5 ++ 0#11

/-- The command word whose bits are `w`, of which the opcode table gives `nbits`: every bit from `nbits` up is 0. A command
is one 16-bit word (R48). -/
def tableWord (nbits w : Nat) : BitVec 16 := BitVec.ofNat 16 (w % 2 ^ nbits)

/-- The instruction the decoder reads from the word whose bits are `w`, numbered as `opcode_table.json` numbers them. -/
def decodeTableWord (nbits w : Nat) : Option Instr :=
  match decode (tableWord nbits w) with
  | .ok i => some i
  | .error _ => none

end Sys2Proof
end

