-- ==== Sys2Proof/Config.lean ====
section
/-! DEFINITION. What an implementation of LEA-CORE fixes (`00_scope.md` R7): the key sizes and directions that
exist, and the two OPEN parameters of the spec, `DELTA` and `LAT` (`92_eei_decisions.md` D12, D30). -/

namespace Sys2Proof

/-- The legal key lengths, 16, 24 and 32 bytes (`00_scope.md` R3, R7). -/
inductive KeyLength
  | k128
  | k192
  | k256
  deriving DecidableEq, Repr

/-- "enum (Encrypt, Decrypt)": the direction a schedule is built for (`00_scope.md` R3, glossary). -/
inductive Direction
  | encrypt
  | decrypt
  deriving DecidableEq, Repr

/-- The round-constant table `DELTA[0..7]` the machine runs with: the default values of `41_key_schedule.md` R64.
DESIGN CHOICE, unsafe (log entry 1): the spec makes the table an open parameter of the block and gives these eight values
as its default, from general knowledge. Every function of the key schedule takes the table as an ARGUMENT
(`expand128 delta`, `buildSchedule delta`, `kschedWith delta`); only `execKsched` fixes it to this default. -/
def Config.delta : Vector Word 8 :=
  #v[0xC3EFE9DB#32, 0x44626B02#32, 0x79E27C8A#32, 0x78DF30EC#32,
     0x715EA49E#32, 0xC785DA0A#32, 0xE04EF22A#32, 0xE5C40957#32]

/-- The open parameter `LAT` less one (R124, D30): a FREE function of exactly what `70_reset_and_hazards.md` R122 lets a
latency depend on, namely the command word, `SVALID`, `SDIR`, `SNR` and whether the command fails. No value of it can
be proved (log entry 2). -/
opaque Config.extraLatency (cmd : BitVec 16) (svalid sdir : Bool) (snr : BitVec 6) (fails : Bool) : Nat

/-- `LAT(cmd) >= 1`, finite (R41, R123, R124). -/
def Config.latency (cmd : BitVec 16) (svalid sdir : Bool) (snr : BitVec 6) (fails : Bool) : Nat :=
  Config.extraLatency cmd svalid sdir snr fails + 1

end Sys2Proof
end

