-- ==== Sys2Proof/Machine/State.lean ====
section
/-! DEFINITION. The state of LEA-CORE. `10_state.md` R12 gives exactly six items (`X`, `RKR`, `SCHED`, `KEYB`, `BLK`,
`STATUS`); the last three fields of `State` are the MODEL's own and hold the host port at command level (log entries 3, 4):
the data operand of the command being executed, the response of the last event, the events still to come. -/

namespace Sys2Proof.Machine

/-- The error kinds of `60_exceptions.md` R103. -/
inductive ErrorCode
  /-- LEA-DOC's `InvalidKeyLength`: `klen` is not 16, 24 or 32. -/
  | keyLen
  /-- LEA-DOC's `InvalidDirection`: `klen` is legal and `dir` is 2 or 3. -/
  | dir
  /-- Reserved opcode, or a reserved bit of the format is 1. -/
  | illegal
  /-- `STATUS.SVALID = 0`. -/
  | noSched
  /-- `SVALID = 1` and `SDIR` is not the command's direction. -/
  | mismatch
  /-- An index past the end of a round key or of the schedule. -/
  | index
  deriving DecidableEq, Repr

/-- `STATUS` (`10_state.md` R17), field by field. Bits 31:12 are reserved, read as zero and are never written, so they hold
nothing: `Status.word` (Flags.lean) is the 32-bit value the register reads as. -/
structure Status where
  svalid : Bool
  sdir : Bool
  snr : BitVec 6
  err : BitVec 4
  deriving DecidableEq, Repr

/-- The response of one command: the pair `(ERR, RDATA)` of `30_encoding.md` R42. -/
structure Response where
  err : BitVec 4
  rdata : Word
  deriving DecidableEq, Repr

/-- What the host can do to the block at command level: present a command, the pair `(C, WDATA)` of R42, or apply
`Reset` ("one more input event", `70_reset_and_hazards.md` R117). -/
inductive PortEvent
  | command (cmd : BitVec 16) (wdata : Word)
  | reset
  deriving DecidableEq, Repr

/-- The state of the machine. -/
structure State where
  /-- `X[0..3]`, the cipher state (R13). -/
  x : Vector Word 4
  /-- `RKR[0..5]`, the round-key operand (R14). -/
  rkr : Vector Word 6
  /-- `SCHED[0..31][0..5]`, the one key schedule (R19). -/
  sched : Vector RoundKey 32
  /-- `KEYB[0..31]`, the key buffer (R21). -/
  keyb : Vector Byte 32
  /-- `BLK[0..15]`, the block buffer (R22). -/
  blk : Vector Byte 16
  /-- `STATUS` (R17). -/
  status : Status
  /-- MODEL's own: `WDATA` as sampled with the command being executed (`30_encoding.md` R41, R42). -/
  wdata : Word
  /-- MODEL's own: the response the last event gave; `none` where it gave none. -/
  rsp : Option Response
  /-- MODEL's own: the port events the host has still to present, first one first. -/
  inbox : List PortEvent
  deriving DecidableEq, Repr

/-- Why the machine could stop with a fault: there is NO reason. Every error of the spec is the outcome of a command that
ends with a response (`60_exceptions.md` R103, R107) and "there is no stuck state and no hang"
(`70_reset_and_hazards.md` R123), so this type has no constructor, nobody raises it, and that is safe. -/
inductive Fault
  deriving DecidableEq, Repr

/-- Why the model could decline to give a command a meaning. -/
inductive Refusal
  /-- The command of this mnemonic has no meaning in the model yet. Raised by an arm of `exec` only, and today by none:
  all 22 commands have their meaning. Safe: the machine stops where the hardware goes on. -/
  | notModelled (mnemonic : String)
  deriving DecidableEq, Repr

/-- The three outcomes of a step (`Host/Core.lean`), for this machine. -/
abbrev Outcome := Host.Outcome State Fault Refusal

/-- The machine right after reset: every piece of state is zero (`10_state.md` R26, `70_reset_and_hazards.md` R117). The
model's own fields: no data operand sampled, no response given (R117), nothing presented by the host. -/
def State.reset : State where
  x := Vector.replicate 4 0#32
  rkr := Vector.replicate 6 0#32
  sched := Vector.replicate 32 (Vector.replicate 6 0#32)
  keyb := Vector.replicate 32 0#8
  blk := Vector.replicate 16 0#8
  status := ⟨false, false, 0#6, 0#4⟩
  wdata := 0#32
  rsp := none
  inbox := []

end Sys2Proof.Machine
end

