-- ==== Sys2Proof/Machine/Flags.lean ====
section
/-! DEFINITION. There are no condition codes: "No command writes a flag as a side effect" (`10_state.md` R16). What stands
here are the fields of `STATUS` (R17): the word it reads as, and its two writers' updates, recording an error code
(`60_exceptions.md` R107, R108), and the three schedule fields (`41_key_schedule.md` R75). -/

namespace Sys2Proof.Machine

/-- The numbers of the error kinds (`60_exceptions.md` R103). -/
def ErrorCode.code : ErrorCode → BitVec 4
  | .keyLen => 1
  | .dir => 2
  | .illegal => 3
  | .noSched => 4
  | .mismatch => 5
  | .index => 6

/-- The 32-bit value of `STATUS`: bit 0 `SVALID`, bit 1 `SDIR`, bits 7:2 `SNR`, bits 11:8 `ERR`, bits 31:12 zero (R17). -/
def Status.word (st : Status) : Word :=
  0#20 ++ st.err ++ st.snr ++ BitVec.ofBool st.sdir ++ BitVec.ofBool st.svalid

/-- `STATUS.ERR` keeps the code of the first failed command since it was last 0 (R107, R108). -/
def Status.recordError (code : ErrorCode) (st : Status) : Status :=
  if st.err = 0 then { st with err := code.code } else st

/-- `STATUS.ERR <- 0` (`45_system.md` R100). -/
def Status.clearError (st : Status) : Status := { st with err := 0 }

/-- `STATUS.SVALID <- 1; STATUS.SDIR <- dir[0]; STATUS.SNR <- Nr` (R75). -/
def Status.scheduleBuilt (dir : BitVec 2) (nr : Nat) (st : Status) : Status :=
  { st with svalid := true, sdir := dir.getLsbD 0, snr := BitVec.ofNat 6 nr }

end Sys2Proof.Machine
end

