-- ==== Sys2Proof/Machine/Operands.lean ====
section
/-! DEFINITION. Operand assembly (`30_encoding.md` R44): "Every field is an unsigned integer ... with no sign extension, no
scaling and no offset". A field whose every value names something gives an index; a field that can name
something that does not exist gives an `Option`, and the command that reads it raises the error. -/

namespace Sys2Proof.Machine

/-- `a` of format A5: a byte offset into `KEYB`, 0..31. -/
abbrev keyByteIndex (a : BitVec 5) : Fin 32 := ⟨a.toNat, by omega⟩

/-- `a` of format A4: a byte offset into `BLK`, 0..15. -/
abbrev blockByteIndex (a : BitVec 4) : Fin 16 := ⟨a.toNat, by omega⟩

/-- `j`: the word `X[j]`, 0..3. -/
abbrev wordIndex (j : BitVec 2) : Fin 4 := ⟨j.toNat, by omega⟩

/-- The byte offset of the 4-byte group `j` of `BLK` (`20_memory.md` R29): `4j`, never misaligned (R31). -/
def groupOffset (j : BitVec 2) : Nat := 4 * j.toNat

theorem groupOffset_le (j : BitVec 2) : groupOffset j + 4 ≤ 16 := by
  unfold groupOffset; omega

/-- `k`: word `k` of a round key; "only 0..5 exist" (R44). -/
def roundKeyIndex (k : BitVec 3) : Option (Fin 6) :=
  if h : k.toNat < 6 then some ⟨k.toNat, h⟩ else none

/-- `i`: schedule row `i`; only rows `0..SNR-1` can be read (`10_state.md` R19, `20_memory.md` R33). -/
def scheduleRow (st : Status) (i : BitVec 5) : Option (Fin 32) :=
  if i.toNat < st.snr.toNat then some ⟨i.toNat, by omega⟩ else none

/-- `klen`: the key length in bytes, "of which only 16, 24 and 32 are legal" (R44). -/
def keyLengthOf (klen : BitVec 6) : Option KeyLength :=
  match klen.toNat with
  | 16 => some .k128
  | 24 => some .k192
  | 32 => some .k256
  | _ => none

/-- `dir`: 0 = Encrypt, 1 = Decrypt; 2 and 3 are no direction (R44). -/
def directionOf (dir : BitVec 2) : Option Direction :=
  match dir.toNat with
  | 0 => some .encrypt
  | 1 => some .decrypt
  | _ => none

end Sys2Proof.Machine
end

