-- ==== Sys2Proof/Machine/Ops.lean ====
section
/-! DEFINITION. The operations every command is written with: the accesses to the byte buffers (`00_scope.md` R10), the
writes of each piece of state, the response, the sampling of a command, and the two halves of the block's exceptions:
`raiseErr`, "the only way a command fails" (`60_exceptions.md` R107), and `acknowledge`, the host's way back (R109). -/

namespace Sys2Proof.Machine

/-- The vector whose entry `i` is `f i`. -/
def tabulate {α : Type} {n : Nat} (f : Fin n → α) : Vector α n := ⟨⟨List.ofFn f⟩, by simp⟩

/-- `MemRead(B, a, n)` (R10): the `n` bytes from offset `a` on, ascending; "`a + n` never passes the end of the buffer". -/
def memRead {size : Nat} (B : Vector Byte size) (a n : Nat) (h : a + n ≤ size) : Vector Byte n :=
  tabulate fun i => B[a + i.val]

/-- `MemWrite(B, a, n, bytes)` (R10): byte `i` of the list goes to `B[a + i]`; every other byte stays. -/
def memWrite {size n : Nat} (B : Vector Byte size) (a : Nat) (bytes : Vector Byte n) : Vector Byte size :=
  tabulate fun i => if h : a ≤ i.val ∧ i.val < a + n then bytes[i.val - a] else B[i]

def State.withX (v : Vector Word 4) (s : State) : State := { s with x := v }

def State.withRkr (v : Vector Word 6) (s : State) : State := { s with rkr := v }

def State.withSched (v : Vector RoundKey 32) (s : State) : State := { s with sched := v }

def State.withKeyb (v : Vector Byte 32) (s : State) : State := { s with keyb := v }

def State.withBlk (v : Vector Byte 16) (s : State) : State := { s with blk := v }

def State.withStatus (v : Status) (s : State) : State := { s with status := v }

/-- `resp(e, d)` (R10): the response of the command. -/
def State.respond (e : BitVec 4) (d : Word) (s : State) : State := { s with rsp := some ⟨e, d⟩ }

/-- Sampling an accepted command's data operand (`30_encoding.md` R41); no response has been given to it yet. -/
def State.accept (d : Word) (s : State) : State := { s with wdata := d, rsp := none }

/-- The end of a successful command that returns no data: `resp(0, 0)` (R10, R42). -/
def done (s : State) : Outcome := .next (s.respond 0 0)

/-- The end of a successful read command: `resp(0, d)` (R42). -/
def reply (d : Word) (s : State) : Outcome := .next (s.respond 0 d)

/-- Error entry, `raise Err(code)` (R107): record the code if none is recorded, respond with it and zero data, end
the command. "Nothing is saved, no mode changes, no stack is used and control goes nowhere". -/
def raiseErr (code : ErrorCode) (s : State) : Outcome :=
  .next ((s.withStatus (s.status.recordError code)).respond code.code 0)

/-- Error return (R109): the host acknowledges an error, which restores `STATUS.ERR = 0` and nothing else. -/
def acknowledge (s : State) : State := s.withStatus s.status.clearError

/-- The rows of the schedule that a command can read, `SCHED[0..SNR-1]` (`10_state.md` R19), first row first. -/
def State.schedule (s : State) : KeySchedule := s.sched.toList.take s.status.snr.toNat

/-- `for i in 0..Nr-1: SCHED[i] <- S[i]`, rows at or above `Nr = len(S)` as they were (R75, R19). -/
def storeSchedule (S : KeySchedule) (rows : Vector RoundKey 32) : Vector RoundKey 32 :=
  tabulate fun i => if h : i.val < S.length then S[i.val] else rows[i]

end Sys2Proof.Machine
end

