-- ==== Sys2Proof/Machine/Access.lean ====
section
/-! DEFINITION. The access commands, the block's loads and stores (`44_access.md` R88 to R97). A write takes its data from
`WDATA`, the two byte writes from `WDATA[7:0]` (`30_encoding.md` R42). -/

namespace Sys2Proof.Machine

/-- `WRKB a` (R88): `KEYB[a] <- WDATA[7:0]`. -/
def execWrkb (a : BitVec 5) (s : State) : Outcome :=
  done (s.withKeyb (memWrite s.keyb (keyByteIndex a) #v[s.wdata.extractLsb' 0 8]))

/-- `RDKB a` (R89): `resp(0, zext_32(KEYB[a]))`. -/
def execRdkb (a : BitVec 5) (s : State) : Outcome := reply (s.keyb[keyByteIndex a].setWidth 32) s

/-- `WRBB a` (R90): `BLK[a] <- WDATA[7:0]`. -/
def execWrbb (a : BitVec 4) (s : State) : Outcome :=
  done (s.withBlk (memWrite s.blk (blockByteIndex a) #v[s.wdata.extractLsb' 0 8]))

/-- `RDBB a` (R91): `resp(0, zext_32(BLK[a]))`. -/
def execRdbb (a : BitVec 4) (s : State) : Outcome := reply (s.blk[blockByteIndex a].setWidth 32) s

/-- `WRX j` (R92): `X[j] <- WDATA`. -/
def execWrx (j : BitVec 2) (s : State) : Outcome := done (s.withX (s.x.set (wordIndex j) s.wdata))

/-- `RDX j` (R93): `resp(0, X[j])`. -/
def execRdx (j : BitVec 2) (s : State) : Outcome := reply s.x[wordIndex j] s

/-- `WRRK k` (R94): `ERR_INDEX` for `k` > 5, else `RKR[k] <- WDATA`. -/
def execWrrk (k : BitVec 3) (s : State) : Outcome :=
  match roundKeyIndex k with
  | none => raiseErr .index s
  | some k => done (s.withRkr (s.rkr.set k s.wdata))

/-- `RDRK k` (R95): `ERR_INDEX` for `k` > 5, else `resp(0, RKR[k])`. -/
def execRdrk (k : BitVec 3) (s : State) : Outcome :=
  match roundKeyIndex k with
  | none => raiseErr .index s
  | some k => reply s.rkr[k] s

/-- `LDRK i` (R96): `ERR_NOSCHED` with no schedule, `ERR_INDEX` for `i >= SNR`, else row `i` of `SCHED` into `RKR`,
"whatever `SDIR` is". -/
def execLdrk (i : BitVec 5) (s : State) : Outcome :=
  if s.status.svalid then
    match scheduleRow s.status i with
    | none => raiseErr .index s
    | some row => done (s.withRkr s.sched[row])
  else raiseErr .noSched s

/-- `RDSK i, k` (R97): `ERR_NOSCHED` with no schedule, `ERR_INDEX` for `i >= SNR` or `k` > 5, else
`resp(0, SCHED[i][k])`. -/
def execRdsk (i : BitVec 5) (k : BitVec 3) (s : State) : Outcome :=
  if s.status.svalid then
    match scheduleRow s.status i, roundKeyIndex k with
    | some row, some k => reply s.sched[row][k] s
    | _, _ => raiseErr .index s
  else raiseErr .noSched s

end Sys2Proof.Machine
end

