-- ==== Sys2Proof/Machine/WordCodec.lean ====
section
/-! DEFINITION. The Word Codec: its four pure functions (`40_word_codec.md` R51 to R54) and the commands `B2W`, `W2B`, `ROL`,
`ROR` (R58 to R61). "No failure modes; pure total functions" (R56). -/

namespace Sys2Proof.Machine

/-- `bytesToWord` (R51): `b0` the least significant byte, `b3` the most. -/
def bytesToWord (b0 b1 b2 b3 : Byte) : Word :=
  b0.setWidth 32 + (b1.setWidth 32 <<< 8) + (b2.setWidth 32 <<< 16) + (b3.setWidth 32 <<< 24)

/-- `wordToBytes` (R52): the four bytes in ascending offset order. -/
def wordToBytes (w : Word) : Vector Byte 4 :=
  #v[w.extractLsb' 0 8, w.extractLsb' 8 8, w.extractLsb' 16 8, w.extractLsb' 24 8]

/-- `rotateLeft` (R53): circular, by `r mod 32` bits, toward the most significant bit. A negative amount is
inexpressible (`91_not_in_source.md` N9). -/
def rotateLeft (w : Word) (r : Nat) : Word :=
  let n := r % 32
  if n = 0 then w else (w <<< n) ||| (w >>> (32 - n))

/-- `rotateRight` (R54): "the same with the opposite sense". -/
def rotateRight (w : Word) (r : Nat) : Word :=
  let n := r % 32
  if n = 0 then w else (w >>> n) ||| (w <<< (32 - n))

/-- The word of a 4-byte group in ascending offset order (`20_memory.md` R28, R29). -/
def groupToWord (g : Vector Byte 4) : Word := bytesToWord g[0] g[1] g[2] g[3]

/-- `B2W j` (R58): `X[j] <- bytesToWord(MemRead(BLK, 4j, 4))`. -/
def execB2w (j : BitVec 2) (s : State) : Outcome :=
  done (s.withX (s.x.set (wordIndex j) (groupToWord (memRead s.blk (groupOffset j) 4 (groupOffset_le j)))))

/-- `W2B j` (R59): `MemWrite(BLK, 4j, 4, wordToBytes(X[j]))`. -/
def execW2b (j : BitVec 2) (s : State) : Outcome :=
  done (s.withBlk (memWrite s.blk (groupOffset j) (wordToBytes s.x[wordIndex j])))

/-- `ROL j, r` (R60): `X[j] <- rotateLeft(X[j], r)`. -/
def execRol (j : BitVec 2) (r : BitVec 8) (s : State) : Outcome :=
  done (s.withX (s.x.set (wordIndex j) (rotateLeft s.x[wordIndex j] r.toNat)))

/-- `ROR j, r` (R61): `X[j] <- rotateRight(X[j], r)`. -/
def execRor (j : BitVec 2) (r : BitVec 8) (s : State) : Outcome :=
  done (s.withX (s.x.set (wordIndex j) (rotateRight s.x[wordIndex j] r.toNat)))

end Sys2Proof.Machine
end

