-- ==== Sys2Proof/Machine/RoundTransform.lean ====
section
/-! DEFINITION. The Round Transform: `encryptRound`, `decryptRound` (`42_round_transform.md` R76, R77) and the commands
`ENCR`, `DECR` (R80, R81). "Both are pure, total" (R79). -/

namespace Sys2Proof.Machine

/-- `encryptRound(state, rk)` (R76): "the four results are computed from the old state and replace it together". -/
def encryptRound (s : Vector Word 4) (rk : RoundKey) : Vector Word 4 :=
  #v[ rotateLeft ((s[0] ^^^ rk[0]) + (s[1] ^^^ rk[1])) 9,
      rotateRight ((s[1] ^^^ rk[2]) + (s[2] ^^^ rk[3])) 5,
      rotateRight ((s[2] ^^^ rk[4]) + (s[3] ^^^ rk[5])) 3,
      s[0] ]

/-- `decryptRound(state, rk)` (R77): a chain, `t1` from the new `t0`, `t2` from the new `t1`, `t3` from the new `t2`. -/
def decryptRound (s : Vector Word 4) (rk : RoundKey) : Vector Word 4 :=
  let t0 := s[3]
  let t1 := (rotateRight s[0] 9 - (t0 ^^^ rk[0])) ^^^ rk[1]
  let t2 := (rotateLeft s[1] 5 - (t1 ^^^ rk[2])) ^^^ rk[3]
  let t3 := (rotateLeft s[2] 3 - (t2 ^^^ rk[4])) ^^^ rk[5]
  #v[t0, t1, t2, t3]

/-- `ENCR` (R80): needs no schedule, "whatever `SVALID` is". -/
def execEncr (s : State) : Outcome := done (s.withX (encryptRound s.x s.rkr))

/-- `DECR` (R81). -/
def execDecr (s : State) : Outcome := done (s.withX (decryptRound s.x s.rkr))

end Sys2Proof.Machine
end

