-- ==== Sys2Proof/Machine/BlockDriver.lean ====
section
/-! DEFINITION. The Block Driver: `encryptBlock`, `decryptBlock` (`43_block_driver.md` R82, R83) and the commands `ENCB`,
`DECB` (R86, R87). -/

namespace Sys2Proof.Machine

/-- The four words of a block: word `j` is the group at byte offsets `4j..4j+3` (R82, `20_memory.md` R29). -/
def blockToWords (b : Vector Byte 16) : Vector Word 4 :=
  tabulate fun j => groupToWord (memRead b (4 * j.val) 4 (by omega))

/-- `wordToBytes(x[0]) ++ .. ++ wordToBytes(x[3])`: byte `n` of the block is byte `n mod 4` of word `n / 4` (R82). -/
def wordsToBlock (x : Vector Word 4) : Vector Byte 16 :=
  tabulate fun n => (wordToBytes (x[n.val / 4]'(by omega)))[n.val % 4]'(by omega)

/-- The round loop, `for i in 0..len(S)-1: x <- round(x, S[i])` (R82, R83). -/
def foldRounds (round : Vector Word 4 → RoundKey → Vector Word 4) (S : KeySchedule) (x : Vector Word 4) : Vector Word 4 :=
  S.foldl round x

/-- `encryptBlock(plaintext, schedule)` (R82). -/
def encryptBlock (p : Vector Byte 16) (S : KeySchedule) : Vector Byte 16 :=
  wordsToBlock (foldRounds encryptRound S (blockToWords p))

/-- `decryptBlock(ciphertext, schedule)` (R83): the schedule is walked in ascending index order here too. -/
def decryptBlock (c : Vector Byte 16) (S : KeySchedule) : Vector Byte 16 :=
  wordsToBlock (foldRounds decryptRound S (blockToWords c))

/-- What both block commands write (R86, R87): the final words stay in `X` and their bytes go to `BLK`. -/
def storeBlock (x : Vector Word 4) (s : State) : State := (s.withX x).withBlk (wordsToBlock x)

/-- `ENCB` (R86): `ERR_NOSCHED` with no schedule, `ERR_MISMATCH` under a Decrypt schedule, else `BLK` encrypted in place. -/
def execEncb (s : State) : Outcome :=
  if s.status.svalid then
    if s.status.sdir then raiseErr .mismatch s
    else done (storeBlock (foldRounds encryptRound s.schedule (blockToWords s.blk)) s)
  else raiseErr .noSched s

/-- `DECB` (R87): as `ENCB` with the direction test inverted and `decryptRound`. -/
def execDecb (s : State) : Outcome :=
  if s.status.svalid then
    if s.status.sdir then done (storeBlock (foldRounds decryptRound s.schedule (blockToWords s.blk)) s)
    else raiseErr .mismatch s
  else raiseErr .noSched s

end Sys2Proof.Machine
end

