-- ==== Sys2Proof/Machine/KeySchedule.lean ====
section
/-! DEFINITION. The Key Schedule Generator (`41_key_schedule.md`): the constants of each key length (R62, R63), the three
expansions (R65 to R70), `buildSchedule` (R71) and the command `KSCHED` (R75). The round-constant table is an argument
`delta` throughout (R64); the working array `T` is a local value, not state (`10_state.md` R23). -/

namespace Sys2Proof

/-- `len(key)` in bytes (R62). -/
def KeyLength.bytes : KeyLength → Nat
  | .k128 => 16
  | .k192 => 24
  | .k256 => 32

/-- `Nr`, the number of rounds (R62). -/
def KeyLength.rounds : KeyLength → Nat
  | .k128 => 24
  | .k192 => 28
  | .k256 => 32

/-- `M`, "the modulus for constant selection (4, 6, or 8, matching key-size class)" (R62). -/
def KeyLength.modulus : KeyLength → Nat
  | .k128 => 4
  | .k192 => 6
  | .k256 => 8

theorem KeyLength.bytes_le (L : KeyLength) : 0 + L.bytes ≤ 32 := by cases L <;> decide

theorem KeyLength.mod_lt (L : KeyLength) (i : Nat) : i % L.modulus < 8 := by
  cases L <;> simp only [KeyLength.modulus] <;> omega

namespace Machine

/-- `SHIFT[0..5]` (R63). -/
def shiftTable : Vector Nat 6 := #v[1, 3, 6, 11, 13, 17]

/-- What update `k` of round `i` makes of the word it rewrites (R66):
`rotateLeft(t + rotateLeft(DELTA[i mod M], i + k), SHIFT[k])`. -/
def updatedWord (delta : Vector Word 8) (L : KeyLength) (i : Nat) (k : Fin 6) (t : Word) : Word :=
  rotateLeft (t + rotateLeft (delta[i % L.modulus]'(L.mod_lt i)) (i + k.val)) shiftTable[k]

/-- Update `k` of round `i` with target index `t`: `T[t]` rewritten in place (R66). -/
def updateAt {n : Nat} (delta : Vector Word 8) (L : KeyLength) (i : Nat) (k : Fin 6) (t : Fin n)
    (T : Vector Word n) : Vector Word n :=
  T.set t (updatedWord delta L i k T[t])

/-- Round `i` of the 128-bit variant: `for k in 0..3`, target `T[k]` (R68). -/
def round128 (delta : Vector Word 8) (i : Nat) (T : Vector Word 4) : Vector Word 4 :=
  [0, 1, 2, 3].foldl (fun T (k : Fin 4) => updateAt delta .k128 i (k.castLE (by decide)) k T) T

/-- Round `i` of the 192-bit variant: `for k in 0..5`, target `T[k]` (R69). -/
def round192 (delta : Vector Word 8) (i : Nat) (T : Vector Word 6) : Vector Word 6 :=
  [0, 1, 2, 3, 4, 5].foldl (fun T (k : Fin 6) => updateAt delta .k192 i k k T) T

/-- The target of update `k` of round `i` in the 256-bit variant: `(6i + k) mod 8` (R70). -/
def window256 (i : Nat) (k : Fin 6) : Fin 8 := ⟨(6 * i + k.val) % 8, by omega⟩

/-- Round `i` of the 256-bit variant: `for k in 0..5`, target `T[(6i + k) mod 8]` (R70). -/
def round256 (delta : Vector Word 8) (i : Nat) (T : Vector Word 8) : Vector Word 8 :=
  [0, 1, 2, 3, 4, 5].foldl (fun T (k : Fin 6) => updateAt delta .k256 i k (window256 i k) T) T

/-- `EK[i] <- [T[0], T[1], T[2], T[1], T[3], T[1]]` (R68). -/
def roundKey128 (T : Vector Word 4) : RoundKey := #v[T[0], T[1], T[2], T[1], T[3], T[1]]

/-- `EK[i] <- [T[(6i+0) mod 8], .., T[(6i+5) mod 8]]` (R70). -/
def roundKey256 (i : Nat) (T : Vector Word 8) : RoundKey := tabulate fun k => T[window256 i k]

/-- The expansion loop, `count` rounds from round `i` on: update `T`, then place the round key ("The values placed in
`EK[i]` are those after round `i`'s ... updates", R68). -/
def expandFrom {n : Nat} (round : Nat → Vector Word n → Vector Word n) (place : Nat → Vector Word n → RoundKey) :
    (count i : Nat) → Vector Word n → KeySchedule
  | 0, _, _ => []
  | count + 1, i, T => place i (round i T) :: expandFrom round place count (i + 1) (round i T)

/-- The key words, `T[j] = bytesToWord(key[4j], .., key[4j+3])` (R65, `20_memory.md` R29). -/
def keyWords {n : Nat} (key : Vector Byte (4 * n)) : Vector Word n :=
  tabulate fun j => bytesToWord key[4 * j.val] key[4 * j.val + 1] key[4 * j.val + 2] key[4 * j.val + 3]

/-- `expand128(key)`: 24 round keys (R68). -/
def expand128 (delta : Vector Word 8) (key : Vector Byte 16) : KeySchedule :=
  expandFrom (round128 delta) (fun _ => roundKey128) 24 0 (keyWords (n := 4) key)

/-- `expand192(key)`: 28 round keys, `EK[i] <- [T[0], .., T[5]]` (R69). -/
def expand192 (delta : Vector Word 8) (key : Vector Byte 24) : KeySchedule :=
  expandFrom (round192 delta) (fun _ T => T) 28 0 (keyWords (n := 6) key)

/-- `expand256(key)`: 32 round keys (R70). -/
def expand256 (delta : Vector Word 8) (key : Vector Byte 32) : KeySchedule :=
  expandFrom (round256 delta) roundKey256 32 0 (keyWords (n := 8) key)

/-- Round key `i` goes to position `i` for Encrypt, `Nr-1-i` for Decrypt: "This is the only place direction matters"
(R71). -/
def inDirection (EK : KeySchedule) : Direction → KeySchedule
  | .encrypt => EK
  | .decrypt => EK.reverse

/-- The rest of `buildSchedule` once the key has been expanded: the direction is tested after the key length (R71,
`60_exceptions.md` R106). -/
def ordered (EK : KeySchedule) (direction : BitVec 2) : Except ErrorCode KeySchedule :=
  match directionOf direction with
  | none => .error .dir
  | some d => .ok (inDirection EK d)

/-- `buildSchedule(key, direction) -> KeySchedule | InvalidKeyLength | InvalidDirection` (R71), for a key of any length. -/
def buildSchedule (delta : Vector Word 8) (key : List Byte) (direction : BitVec 2) : Except ErrorCode KeySchedule :=
  if h : key.length = 16 then ordered (expand128 delta ⟨key.toArray, by simpa using h⟩) direction
  else if h : key.length = 24 then ordered (expand192 delta ⟨key.toArray, by simpa using h⟩) direction
  else if h : key.length = 32 then ordered (expand256 delta ⟨key.toArray, by simpa using h⟩) direction
  else .error .keyLen

/-- The key `KSCHED` reads: `MemRead(KEYB, 0, klen)`, offset 0 first (R75). -/
def keyBytes (L : KeyLength) (s : State) : List Byte := (memRead s.keyb 0 L.bytes L.bytes_le).toList

/-- The writes of a successful `KSCHED` (R75): rows `0..Nr-1` of `SCHED` and the three schedule fields of `STATUS`. -/
def installSchedule (S : KeySchedule) (dir : BitVec 2) (s : State) : State :=
  (s.withSched (storeSchedule S s.sched)).withStatus (s.status.scheduleBuilt dir S.length)

/-- `KSCHED klen, dir` with the round-constant table `delta` (R75, D12): the key length is tested first, then
the direction. -/
def kschedWith (delta : Vector Word 8) (klen : BitVec 6) (dir : BitVec 2) (s : State) : Outcome :=
  match keyLengthOf klen with
  | none => raiseErr .keyLen s
  | some L =>
    match buildSchedule delta (keyBytes L s) dir with
    | .error e => raiseErr e s
    | .ok S => done (installSchedule S dir s)

/-- `KSCHED klen, dir` (R75), with the spec's default table. -/
def execKsched (klen : BitVec 6) (dir : BitVec 2) (s : State) : Outcome := kschedWith Config.delta klen dir s

end Machine

end Sys2Proof
end

