-- ==== Sys2Proof/Machine/System.lean ====
section
/-! DEFINITION. The system commands `NOP`, `RDST`, `CLRE` (`45_system.md` R98 to R100). -/

namespace Sys2Proof.Machine

/-- `NOP` (R98): "Changes no state, not even `STATUS.ERR`". -/
def execNop (s : State) : Outcome := done s

/-- `RDST` (R99): read `STATUS` whole; "in particular it does not clear `ERR`". -/
def execRdst (s : State) : Outcome := reply s.status.word s

/-- `CLRE` (R100): `STATUS.ERR <- 0`, the host acknowledging the error. -/
def execClre (s : State) : Outcome := done (acknowledge s)

end Sys2Proof.Machine
end

