-- ==== Sys2Proof/Machine/Dispatch.lean ====
section
/-! DEFINITION. Which meaning each command has: one arm per constructor of `Instr`, in the order of the opcode map
(`30_encoding.md` R45). -/

namespace Sys2Proof.Machine

def exec (i : Instr) (s : State) : Host.Outcome State Fault Refusal :=
  match i with
  | .nop => Sys2Proof.Machine.execNop s
  | .rdst => Sys2Proof.Machine.execRdst s
  | .clre => Sys2Proof.Machine.execClre s
  | .wrkb a => Sys2Proof.Machine.execWrkb a s
  | .rdkb a => Sys2Proof.Machine.execRdkb a s
  | .wrbb a => Sys2Proof.Machine.execWrbb a s
  | .rdbb a => Sys2Proof.Machine.execRdbb a s
  | .wrx j => Sys2Proof.Machine.execWrx j s
  | .rdx j => Sys2Proof.Machine.execRdx j s
  | .wrrk k => Sys2Proof.Machine.execWrrk k s
  | .rdrk k => Sys2Proof.Machine.execRdrk k s
  | .ldrk row => Sys2Proof.Machine.execLdrk row s
  | .rdsk row k => Sys2Proof.Machine.execRdsk row k s
  | .b2w j => Sys2Proof.Machine.execB2w j s
  | .w2b j => Sys2Proof.Machine.execW2b j s
  | .rol j r => Sys2Proof.Machine.execRol j r s
  | .ror j r => Sys2Proof.Machine.execRor j r s
  | .ksched klen dir => Sys2Proof.Machine.execKsched klen dir s
  | .encr => Sys2Proof.Machine.execEncr s
  | .decr => Sys2Proof.Machine.execDecr s
  | .encb => Sys2Proof.Machine.execEncb s
  | .decb => Sys2Proof.Machine.execDecb s

end Sys2Proof.Machine
end

