-- ==== Sys2Proof/Machine/Command.lean ====
section
/-! DEFINITION. The machine over the open parameter `DELTA` (`00_scope.md` R7: "a named parameter a model takes as an argument"):
one command, one event of the host port, and the whole machine, each for a table of round constants `delta`. Only `KSCHED`
reads the table (`41_key_schedule.md` R66, R75). `exec`, `step` and `core` are these at the spec's default table. -/

namespace Sys2Proof.Machine

/-- A command under the table `delta`: `KSCHED` builds its schedule with it, and no other command looks at it. -/
def execWith (delta : Vector Word 8) (i : Instr) (s : State) : Outcome :=
  match i with
  | .ksched klen dir => kschedWith delta klen dir s
  | other => exec other s

/-- An accepted command `(C, WDATA)`: decoded before anything else is looked at, executed if it is one of the 22, and
"an illegal word executes as a failed command with `ERR_ILLEGAL`" (`30_encoding.md` R47, `60_exceptions.md` R106). -/
def runCommand (delta : Vector Word 8) (C : BitVec 16) (d : Word) (s : State) : Outcome :=
  match decode C with
  | .ok i => execWith delta i (s.accept d)
  | .error _ => raiseErr .illegal (s.accept d)

/-- The event `Reset`: "maps any state to the reset state" and gives no response (R117). What the host has still to
present is the host's and stays. -/
def applyReset (s : State) : State := { State.reset with inbox := s.inbox }

/-- A step in which the host presents nothing: "Between commands the block holds its state indefinitely"
(`60_exceptions.md` R116), and no response is given. -/
def idle (s : State) : State := { s with rsp := none }

/-- One event of the host port, the first that stands in the inbox, under the table `delta`. -/
def stepWith (delta : Vector Word 8) (s : State) : Outcome :=
  match s.inbox with
  | [] => .next (idle s)
  | .reset :: rest => .next (applyReset { s with inbox := rest })
  | .command C d :: rest => runCommand delta C d { s with inbox := rest }

/-- The machine with the table `delta`. -/
def coreWith (delta : Vector Word 8) : Host.Core where
  State := State
  Fault := Fault
  Refusal := Refusal
  step := stepWith delta
  reset := State.reset

end Sys2Proof.Machine
end

