-- ==== Sys2Proof/Machine/Step.lean ====
section
/-! DEFINITION. One step: the next event on the host port (`00_scope.md` R6, `30_encoding.md` R41, R42, `70_reset_and_hazards.md`
R117). There is no program counter and nothing is fetched (`10_state.md` R15): "which command comes next is the host's
choice", so the events to come stand in `State.inbox`, and the step takes the first. -/

namespace Sys2Proof.Machine

/-- One event of the host port, with the spec's default table (log entry 1). -/
def step (s : State) : Host.Outcome State Fault Refusal := stepWith Config.delta s

/-- The state in which the host is about to present the command word whose bits are `w`, with the data operand already
on the port: the very next step accepts it (log entry 5). -/
def State.withFetchWord (s : State) (nbits w : Nat) : State :=
  { s with inbox := .command (tableWord nbits w) s.wdata :: s.inbox }

end Sys2Proof.Machine
end

