-- ==== Sys2Proof/Machine/Assembler.lean ====
section
/-! DEFINITION. The assembler of `30_encoding.md` R49 and R50: from one line of text to the commands it stands for, the
pseudo-commands included. "Every other command is assembled with `WDATA = 0x00000000`." -/

namespace Sys2Proof.Machine

/-- The commands of a line: itself, or the expansion of a pseudo-command (R50). -/
def expandLine (l : AsmLine) : List Instr :=
  match l.mnemonic, l.operands with
  | .nop, [] => [.nop]
  | .rdst, [] => [.rdst]
  | .clre, [] => [.clre]
  | .wrkb, [a] => [.wrkb (BitVec.ofNat 5 a)]
  | .rdkb, [a] => [.rdkb (BitVec.ofNat 5 a)]
  | .wrbb, [a] => [.wrbb (BitVec.ofNat 4 a)]
  | .rdbb, [a] => [.rdbb (BitVec.ofNat 4 a)]
  | .wrx, [j] => [.wrx (BitVec.ofNat 2 j)]
  | .rdx, [j] => [.rdx (BitVec.ofNat 2 j)]
  | .wrrk, [k] => [.wrrk (BitVec.ofNat 3 k)]
  | .rdrk, [k] => [.rdrk (BitVec.ofNat 3 k)]
  | .ldrk, [i] => [.ldrk (BitVec.ofNat 5 i)]
  | .rdsk, [i, k] => [.rdsk (BitVec.ofNat 5 i) (BitVec.ofNat 3 k)]
  | .b2w, [j] => [.b2w (BitVec.ofNat 2 j)]
  | .w2b, [j] => [.w2b (BitVec.ofNat 2 j)]
  | .rol, [j, r] => [.rol (BitVec.ofNat 2 j) (BitVec.ofNat 8 r)]
  | .ror, [j, r] => [.ror (BitVec.ofNat 2 j) (BitVec.ofNat 8 r)]
  | .ksched, [klen, dir] => [.ksched (BitVec.ofNat 6 klen) (BitVec.ofNat 2 dir)]
  | .encr, [] => [.encr]
  | .decr, [] => [.decr]
  | .encb, [] => [.encb]
  | .decb, [] => [.decb]
  | .ks128, [dir] => [.ksched 16 (BitVec.ofNat 2 dir)]
  | .ks192, [dir] => [.ksched 24 (BitVec.ofNat 2 dir)]
  | .ks256, [dir] => [.ksched 32 (BitVec.ofNat 2 dir)]
  | .b2wAll, [] => [.b2w 0, .b2w 1, .b2w 2, .b2w 3]
  | .w2bAll, [] => [.w2b 0, .w2b 1, .w2b 2, .w2b 3]
  | _, _ => []

/-- What the assembler makes of a line: the command words with their data operands, or `none` where it refuses the
line (R49). -/
def assemble (l : AsmLine) : Option (List PortEvent) :=
  if l.wellFormed then
    some ((expandLine l).map fun i => .command (encode i) (BitVec.ofNat 32 (l.data.getD 0)))
  else none

/-- The names a line may begin with. -/
def mnemonicNames : List (String × Mnemonic) :=
  [ ("NOP", .nop), ("RDST", .rdst), ("CLRE", .clre), ("WRKB", .wrkb), ("RDKB", .rdkb), ("WRBB", .wrbb), ("RDBB", .rdbb),
    ("WRX", .wrx), ("RDX", .rdx), ("WRRK", .wrrk), ("RDRK", .rdrk), ("LDRK", .ldrk), ("RDSK", .rdsk), ("B2W", .b2w),
    ("W2B", .w2b), ("ROL", .rol), ("ROR", .ror), ("KSCHED", .ksched), ("ENCR", .encr), ("DECR", .decr), ("ENCB", .encb),
    ("DECB", .decb), ("KS128", .ks128), ("KS192", .ks192), ("KS256", .ks256), ("B2WALL", .b2wAll), ("W2BALL", .w2bAll) ]

/-- The value of a digit, 0..15; `none` for any other character. -/
def digitValue (c : Char) : Option Nat :=
  if '0' ≤ c ∧ c ≤ '9' then some (c.toNat - '0'.toNat)
  else if 'a' ≤ c ∧ c ≤ 'f' then some (c.toNat - 'a'.toNat + 10)
  else if 'A' ≤ c ∧ c ≤ 'F' then some (c.toNat - 'A'.toNat + 10)
  else none

/-- The integer of a string of digits in base `base`, `acc` the value of those already read. -/
def digits (base : Nat) : List Char → Nat → Option Nat
  | [], acc => some acc
  | c :: cs, acc =>
    match digitValue c with
    | some v => if v < base then digits base cs (base * acc + v) else none
    | none => none

/-- "Operands are decimal or `0x` hex integers" (R49). -/
def parseInteger : List Char → Option Nat
  | '0' :: 'x' :: c :: cs => digits 16 (c :: cs) 0
  | c :: cs => digits 10 (c :: cs) 0
  | [] => none

/-- Where a line has the operand `dir`, which "may be written `ENC` (0) or `DEC` (1)" (R49): its place among the operands. -/
def dirPlace : Mnemonic → Option Nat
  | .ksched => some 1
  | .ks128 | .ks192 | .ks256 => some 0
  | _ => none

/-- One operand; `isDir` where it is the operand `dir`. -/
def parseOperand (isDir : Bool) (t : List Char) : Option Nat :=
  if isDir && t == "ENC".toList then some 0
  else if isDir && t == "DEC".toList then some 1
  else parseInteger t

/-- White space around a piece of a line means nothing. DEDUCED (log entry 10). -/
def trim (t : List Char) : List Char :=
  ((t.dropWhile Char.isWhitespace).reverse.dropWhile Char.isWhitespace).reverse

/-- The pieces of a text between its commas. -/
def pieces : List Char → List (List Char)
  | [] => [[]]
  | c :: cs =>
    if c = ',' then [] :: pieces cs
    else
      match pieces cs with
      | p :: ps => (c :: p) :: ps
      | [] => [[c]]

/-- The operands of a line, the first at place `n`, and the data operand after `#`, which stands last (R49). -/
def parseOperands (m : Mnemonic) : Nat → List (List Char) → Option (List Nat × Option Nat)
  | _, [] => some ([], none)
  | n, t :: ts =>
    match trim t with
    | '#' :: v => if ts.isEmpty then (parseInteger v).map fun d => ([], some d) else none
    | u =>
      match parseOperand (dirPlace m == some n) u, parseOperands m (n + 1) ts with
      | some v, some (vs, d) => some (v :: vs, d)
      | _, _ => none

/-- One line of text (R49): `none` where it is no line of the syntax, `some none` where it holds only white space or a
comment, which "runs from `;` to the end of the line". -/
def parseLine (text : String) : Option (Option AsmLine) :=
  let line := trim (text.toList.takeWhile (· != ';'))
  if line.isEmpty then some none
  else
    let name := line.takeWhile fun c => !c.isWhitespace
    let rest := trim (line.drop name.length)
    match mnemonicNames.find? fun e => e.1.toList == name with
    | none => none
    | some e =>
      match parseOperands e.2 0 (if rest.isEmpty then [] else pieces rest) with
      | none => none
      | some (ops, d) => some (some ⟨e.2, ops, d⟩)

end Sys2Proof.Machine
end

