-- ==== Sys2Proof/Machine/Port.lean ====
section
/-! DEFINITION. The host port clock by clock (`30_encoding.md` R41, `70_reset_and_hazards.md` R117, R120 to R124): the
handshake around the command-level machine of Command.lean. "The rules of this spec depend only on that sequence of
(command, data operand, response) triples, not on any cycle count" (R41), so `step` has no clock; what the spec
does say about cycles stands here, over the two open parameters of R7: the table `delta`, an argument, and `LAT`, the free
function `Config.latency`. -/

namespace Sys2Proof.Machine

/-- The inputs of the port in one clock cycle (R41). -/
structure PortIn where
  rst : Bool
  cmdValid : Bool
  cmd : BitVec 16
  wdata : Word
  deriving DecidableEq, Repr

/-- The outputs of the port in one clock cycle (R41): `cmd_ready`, and `rsp_valid` with `rsp_err` and `rsp_rdata`. The last two
mean something only while `rsp_valid = 1`, so a cycle with `rsp_valid = 0` gives `none` and no value for them. -/
structure PortOut where
  cmdReady : Bool
  rsp : Option Response
  deriving DecidableEq, Repr

/-- A command in flight: how many cycles are left before the cycle of its response, and that response. "At most one
command is in flight" (R41). -/
structure InFlight where
  left : Nat
  rsp : Response
  deriving DecidableEq, Repr

/-- The block at clock level: the command-level state and the command in flight. -/
structure PortState where
  core : State
  inFlight : Option InFlight
  deriving DecidableEq, Repr

/-- The block idle in its reset state (R117). -/
def PortState.reset : PortState := ⟨State.reset, none⟩

/-- The outputs in a cycle. `cmd_ready` is 0 from the cycle after acceptance up to and including the one with
`rsp_valid = 1`, and 1 in every other cycle with `rst = 0` (R41); both are 0 in every cycle with `rst = 1` (R117). -/
def portOut (p : PortState) (inp : PortIn) : PortOut :=
  if inp.rst then ⟨false, none⟩
  else
    match p.inFlight with
    | none => ⟨true, none⟩
    | some f => ⟨false, if f.left = 0 then some f.rsp else none⟩

/-- `LAT(cmd)` of the command `C` accepted with `STATUS` as in `before` and answered with `r` (R122). -/
def latencyOf (C : BitVec 16) (before : Status) (r : Response) : Nat :=
  Config.latency C before.svalid before.sdir before.snr (r.err != 0)

/-- What the block does at a rising edge with `rst = 0` that accepts `(C, d)` (R41): the command takes its whole effect, and
its response follows by `LAT` cycles. DESIGN CHOICE, safe (log entry 6): the effect is placed at acceptance, since
nothing inside a command is observable (`00_scope.md` R6). -/
def acceptCommand (delta : Vector Word 8) (C : BitVec 16) (d : Word) (p : PortState) : Host.Outcome PortState Fault Refusal :=
  match runCommand delta C d p.core with
  | .next t => .next ⟨t, t.rsp.map fun r => ⟨latencyOf C p.core.status r - 1, r⟩⟩
  | .fault e => .fault e
  | .refused e => .refused e

/-- The rising edge that ends a cycle. With `rst = 1` it is Reset, and "a command in flight is abandoned and gets no
response" (R117); else a command in flight moves on, and an idle block accepts the command that is presented. -/
def portEdge (delta : Vector Word 8) (p : PortState) (inp : PortIn) : Host.Outcome PortState Fault Refusal :=
  if inp.rst then .next ⟨applyReset p.core, none⟩
  else
    match p.inFlight with
    | some f => .next ⟨p.core, if f.left = 0 then none else some ⟨f.left - 1, f.rsp⟩⟩
    | none => if inp.cmdValid then acceptCommand delta inp.cmd inp.wdata p else .next p

/-- The block over a run of cycles, one input each. -/
def portRun (delta : Vector Word 8) : PortState → List PortIn → Host.Outcome PortState Fault Refusal
  | p, [] => .next p
  | p, inp :: ins =>
    match portEdge delta p inp with
    | .next q => portRun delta q ins
    | .fault e => .fault e
    | .refused e => .refused e

/-- The outputs over a run of cycles. -/
def portTrace (delta : Vector Word 8) : PortState → List PortIn → List PortOut
  | _, [] => []
  | p, inp :: ins =>
    portOut p inp ::
      match portEdge delta p inp with
      | .next q => portTrace delta q ins
      | _ => []

/-- The command-level event of the edge that ends a cycle: Reset with `rst = 1`; the command where `rst = 0`, `cmd_valid = 1`
and `cmd_ready = 1`; else none (R41, R117). -/
def edgeEvent (p : PortState) (inp : PortIn) : List PortEvent :=
  if inp.rst then [.reset]
  else if inp.cmdValid && (portOut p inp).cmdReady then [.command inp.cmd inp.wdata]
  else []

/-- The command-level events of a run of cycles, in acceptance order. -/
def portEvents (delta : Vector Word 8) : PortState → List PortIn → List PortEvent
  | _, [] => []
  | p, inp :: ins =>
    edgeEvent p inp ++
      match portEdge delta p inp with
      | .next q => portEvents delta q ins
      | _ => []

end Sys2Proof.Machine
end

