-- ==== Sys2Proof/Safety.lean ====
section
/-! DEFINITION. What a good state is, and the words the statements use: the invariant of `10_state.md` R17 and R18, what a
failed command leaves (`60_exceptions.md` R107), and what the port shows an observer who may not see data
(`70_reset_and_hazards.md` R122). -/

namespace Sys2Proof.Machine

/-- The legal values of the fields of `STATUS` (R17): `SDIR` and `SNR` are 0 whenever `SVALID = 0`; `SNR` is 24, 28 or 32
otherwise; `ERR` is 0..6. -/
def Status.Legal (st : Status) : Prop :=
  (st.svalid = false → st.sdir = false ∧ st.snr.toNat = 0) ∧
  (st.svalid = true → st.snr.toNat = 24 ∨ st.snr.toNat = 28 ∨ st.snr.toNat = 32) ∧
  st.err.toNat ≤ 6

/-- While `SVALID = 1`, rows `SCHED[0..SNR-1]` are exactly `buildSchedule(key, dir)` for some key and the direction that
`SDIR` records (R18), under the round constants `delta`. -/
def ScheduleBuilt (delta : Vector Word 8) (s : State) : Prop :=
  s.status.svalid = true →
    ∃ (key : List Byte) (dir : BitVec 2) (S : KeySchedule),
      buildSchedule delta key dir = .ok S ∧ S.length = s.status.snr.toNat ∧
      s.status.sdir = decide (dir = 1) ∧
      ∀ (i : Fin 32) (h : i.val < S.length), s.sched[i] = S[i.val]

/-- `rsp_err` never holds a reserved code (`60_exceptions.md` R103), and a failed command returns no data (R107). -/
def ResponseLegal (s : State) : Prop :=
  ∀ r, s.rsp = some r → r.err.toNat ≤ 6 ∧ (r.err ≠ 0 → r.rdata = 0)

/-- The invariant of the machine with the table `delta` (R17, R18, R103, R107). -/
structure Inv (delta : Vector Word 8) (s : State) : Prop where
  status : s.status.Legal
  schedule : ScheduleBuilt delta s
  response : ResponseLegal s

/-- What the spec says a failed command with error code `code` leaves (R107, R108): the response `(code, 0)`, `STATUS.ERR`
set to the code if it was 0, and everything else as it was. -/
def failed (code : BitVec 4) (s : State) : State :=
  { s with rsp := some ⟨code, 0⟩, status := { s.status with err := if s.status.err = 0 then code else s.status.err } }

/-- The state in which the next command is executed: the host's event taken, its data operand sampled. -/
def accepted (d : Word) (rest : List PortEvent) (s : State) : State :=
  { s with wdata := d, rsp := none, inbox := rest }

/-- "An illegal word executes as a failed command with `ERR_ILLEGAL` (code 3)" (`30_encoding.md` R47), whenever the word
satisfies `bad`, whatever the state and the data operand. -/
def IllegalWords (bad : BitVec 16 → Prop) : Prop :=
  ∀ (C : BitVec 16) (d : Word) (rest : List PortEvent) (s : State),
    s.inbox = .command C d :: rest → bad C → step s = .next (failed 3 (accepted d rest s))

/-- The reserved bits of an assigned opcode's format, those shown as 0 in the table of formats (`30_encoding.md` R43). -/
def reservedBits (op : BitVec 5) : BitVec 16 :=
  if op ∈ [0x04, 0x05, 0x0C] then 0x07E0 -- A5, I
  else if op ∈ [0x06, 0x07] then 0x07F0 -- A4
  else if op ∈ [0x08, 0x09, 0x10, 0x11] then 0x07FC -- J
  else if op ∈ [0x0A, 0x0B] then 0x07F8 -- W
  else if op ∈ [0x0D, 0x14] then 0x0700 -- S, K
  else if op ∈ [0x12, 0x13] then 0x0400 -- R
  else 0x07FF -- N

/-- `exec` run over a list of commands, stopping at the first that does not answer a next state. -/
def execAll : List Instr → State → Outcome
  | [], s => .next s
  | i :: is, s =>
    match exec i s with
    | .next t => execAll is t
    | o => o

/-- Stepping a block through the rounds by hand (`44_access.md` R96): `B2W 0..3`, then for each of `rounds` rows the pair
`LDRK i`, `round`, then `W2B 0..3`. -/
def handStepping (rounds : Nat) (round : Instr) : List Instr :=
  [.b2w 0, .b2w 1, .b2w 2, .b2w 3] ++
    (List.range rounds).flatMap (fun i => [.ldrk (BitVec.ofNat 5 i), round]) ++
    [.w2b 0, .w2b 1, .w2b 2, .w2b 3]

/-- The public part of a cycle's outputs: the two handshake signals and the error code, not the read data. -/
def PortOut.control (o : PortOut) : Bool × Option (BitVec 4) := (o.cmdReady, o.rsp.map (·.err))

/-- The public part of a cycle's inputs: everything but the data operand. -/
def PortIn.control (i : PortIn) : Bool × Bool × BitVec 16 := (i.rst, i.cmdValid, i.cmd)

/-- The public part of the block: `STATUS`, and how long the command in flight still takes with the code it will return. -/
def PortState.control (p : PortState) : Status × Option (Nat × BitVec 4) :=
  (p.core.status, p.inFlight.map fun f => (f.left, f.rsp.err))

/-! What the assembler makes of the operands and the data of a line, form by form (`30_encoding.md` R49): the command words with their
data operand where the operands are as many as the form has and each is below its bound, and `none` otherwise. -/

/-- A line with no operand: the words `words`. -/
def lineOfNone (words : List (BitVec 16)) : List Nat → Option Nat → Option (List PortEvent)
  | [], none => some (words.map (.command · 0))
  | _, _ => none

/-- A line with one operand below `bound`: the word `base` plus the operand times `unit`. -/
def lineOfOne (base unit bound : Nat) : List Nat → Option Nat → Option (List PortEvent)
  | [a], none => if a < bound then some [.command (BitVec.ofNat 16 (base + unit * a)) 0] else none
  | _, _ => none

/-- A write line, with one operand below `bound` and a data operand of at most 32 bits: the word `base` plus the operand. -/
def lineOfWrite (base bound : Nat) : List Nat → Option Nat → Option (List PortEvent)
  | [a], some v =>
    if a < bound ∧ v < 4294967296 then some [.command (BitVec.ofNat 16 (base + a)) (BitVec.ofNat 32 v)] else none
  | _, _ => none

/-- A line with two operands, below `bound` and `bound'`: the word `base` plus each operand times its unit. -/
def lineOfTwo (base unit bound unit' bound' : Nat) : List Nat → Option Nat → Option (List PortEvent)
  | [a, b], none =>
    if a < bound ∧ b < bound' then some [.command (BitVec.ofNat 16 (base + unit * a + unit' * b)) 0] else none
  | _, _ => none

end Sys2Proof.Machine
end

