-- ==== Sys2Proof/Certificates/Slice0/Obligations.lean ====
section
/-! DEFINITION. The statements for the provers, one `def Obligations.<Name> : Prop` each. `exec`, `step`, `decode` and the rest
are the model's; what a statement says of them is written from the rules of spec/ that its docstring names. An
equation `exec i s = .next { s with … }` is at once a completion statement, the result and the frame: every piece of
state the record does not name is unchanged, the 32 bytes of `KEYB` and the 16 of `BLK` among them. -/

open Sys2Proof Sys2Proof.Machine

/-! ## Encoding (`30_encoding.md`) -/

/-- Decode and encode agree: decoding an encoded command gives it back, for every command and every value of every field; and no
two words are the same command, a word that decodes being the encoding of what it decodes to. -/
def Obligations.DecodeAndEncodeAgree : Prop :=
  (∀ i : Instr, decode (encode i) = .ok i) ∧
  ∀ (C : BitVec 16) (i : Instr), decode C = .ok i → encode i = C

/-- R45 with the fields of R43: a word is a command exactly when `(C and mask) = match`, and its operands are the
fields of its format. -/
def Obligations.OpcodeMapIsTheTable : Prop :=
  ∀ C : BitVec 16,
    (decode C = .ok .nop ↔ C &&& 0xFFFF = 0x0000) ∧
    (decode C = .ok .rdst ↔ C &&& 0xFFFF = 0x0800) ∧
    (decode C = .ok .clre ↔ C &&& 0xFFFF = 0x1000) ∧
    (∀ a, decode C = .ok (.wrkb a) ↔ C &&& 0xFFE0 = 0x2000 ∧ a = C.extractLsb' 0 5) ∧
    (∀ a, decode C = .ok (.rdkb a) ↔ C &&& 0xFFE0 = 0x2800 ∧ a = C.extractLsb' 0 5) ∧
    (∀ a, decode C = .ok (.wrbb a) ↔ C &&& 0xFFF0 = 0x3000 ∧ a = C.extractLsb' 0 4) ∧
    (∀ a, decode C = .ok (.rdbb a) ↔ C &&& 0xFFF0 = 0x3800 ∧ a = C.extractLsb' 0 4) ∧
    (∀ j, decode C = .ok (.wrx j) ↔ C &&& 0xFFFC = 0x4000 ∧ j = C.extractLsb' 0 2) ∧
    (∀ j, decode C = .ok (.rdx j) ↔ C &&& 0xFFFC = 0x4800 ∧ j = C.extractLsb' 0 2) ∧
    (∀ k, decode C = .ok (.wrrk k) ↔ C &&& 0xFFF8 = 0x5000 ∧ k = C.extractLsb' 0 3) ∧
    (∀ k, decode C = .ok (.rdrk k) ↔ C &&& 0xFFF8 = 0x5800 ∧ k = C.extractLsb' 0 3) ∧
    (∀ i, decode C = .ok (.ldrk i) ↔ C &&& 0xFFE0 = 0x6000 ∧ i = C.extractLsb' 0 5) ∧
    (∀ i k, decode C = .ok (.rdsk i k) ↔ C &&& 0xFF00 = 0x6800 ∧ i = C.extractLsb' 3 5 ∧ k = C.extractLsb' 0 3) ∧
    (∀ j, decode C = .ok (.b2w j) ↔ C &&& 0xFFFC = 0x8000 ∧ j = C.extractLsb' 0 2) ∧
    (∀ j, decode C = .ok (.w2b j) ↔ C &&& 0xFFFC = 0x8800 ∧ j = C.extractLsb' 0 2) ∧
    (∀ j r, decode C = .ok (.rol j r) ↔ C &&& 0xFC00 = 0x9000 ∧ j = C.extractLsb' 8 2 ∧ r = C.extractLsb' 0 8) ∧
    (∀ j r, decode C = .ok (.ror j r) ↔ C &&& 0xFC00 = 0x9800 ∧ j = C.extractLsb' 8 2 ∧ r = C.extractLsb' 0 8) ∧
    (∀ klen dir, decode C = .ok (.ksched klen dir) ↔
      C &&& 0xFF00 = 0xA000 ∧ klen = C.extractLsb' 0 6 ∧ dir = C.extractLsb' 6 2) ∧
    (decode C = .ok .encr ↔ C &&& 0xFFFF = 0xB000) ∧
    (decode C = .ok .decr ↔ C &&& 0xFFFF = 0xB800) ∧
    (decode C = .ok .encb ↔ C &&& 0xFFFF = 0xC000) ∧
    (decode C = .ok .decb ↔ C &&& 0xFFFF = 0xC800)

/-- R47: which words are illegal, by which of the two reasons, and what an illegal word does. -/
def Obligations.IllegalWordsFail : Prop :=
  (∀ (C : BitVec 16) (e : DecodeError), decode C = .error e ↔
    (opcode C ∈ [0x03, 0x0E, 0x0F, 0x15, 0x1A, 0x1B, 0x1C, 0x1D, 0x1E, 0x1F] ∧ e = .reservedOpcode) ∨
    (opcode C ∉ [0x03, 0x0E, 0x0F, 0x15, 0x1A, 0x1B, 0x1C, 0x1D, 0x1E, 0x1F] ∧
      C &&& reservedBits (opcode C) ≠ 0 ∧ e = .reservedBit)) ∧
  IllegalWords (fun C => ∃ e, decode C = .error e) ∧
  decode 0x0000 = .ok .nop ∧ opcode 0xFFFF = 0x1F

/-- A few words of the encoding table of `95_test_vectors.md` section 7 decode to the commands it lists. -/
def Obligations.TableWordsDecode : Prop :=
  decodeTableWord 16 0x201F = some (.wrkb 31) ∧ decodeTableWord 16 0x68BC = some (.rdsk 23 4) ∧
  decodeTableWord 16 0x9224 = some (.rol 2 36) ∧ decodeTableWord 16 0xA050 = some (.ksched 16 1) ∧
  decodeTableWord 16 0xC800 = some .decb ∧ decodeTableWord 16 0x3010 = none ∧ decodeTableWord 16 0x1800 = none

/-! ## A step (`30_encoding.md` R41, R42; `70_reset_and_hazards.md` R117) -/

/-- The step on a command whose word decodes to `i` is `exec i` on the state with that event taken from the inbox and the
data operand sampled. The word that `withFetchWord` places is such an event (the model's choice, log entry 5). With the
table of round constants as a parameter (R7), the step is `execWith` in the same way, `execWith` looks at the table for
`KSCHED` only, and `exec`, `step` and `core` are the machine at the default table (the model's choice, log entry 1). -/
def Obligations.StepRunsTheDecodedCommand : Prop :=
  (∀ (C : BitVec 16) (d : Word) (rest : List PortEvent) (i : Instr) (s : State),
    s.inbox = .command C d :: rest → decode C = .ok i →
      step s = exec i { s with wdata := d, rsp := none, inbox := rest } ∧
      ∀ delta, stepWith delta s = execWith delta i { s with wdata := d, rsp := none, inbox := rest }) ∧
  (∀ (nbits w : Nat) (i : Instr) (s : State), decodeTableWord nbits w = some i →
    step (s.withFetchWord nbits w) = exec i { s with rsp := none } ∧
    ∀ delta, stepWith delta (s.withFetchWord nbits w) = execWith delta i { s with rsp := none }) ∧
  (∀ (delta : Vector Word 8) (klen : BitVec 6) (dir : BitVec 2) (s : State),
    execWith delta (.ksched klen dir) s = kschedWith delta klen dir s) ∧
  (∀ (delta : Vector Word 8) (i : Instr) (s : State), (∀ klen dir, i ≠ .ksched klen dir) → execWith delta i s = exec i s) ∧
  (∀ (i : Instr) (s : State), execWith Config.delta i s = exec i s) ∧
  (∀ s : State, stepWith Config.delta s = step s) ∧ Sys2Proof.core = coreWith Config.delta

/-- R26: every piece of state is zero after reset, and `STATUS` reads as zero. -/
def Obligations.ResetStateIsZero : Prop :=
  (∀ j : Fin 4, State.reset.x[j] = 0) ∧ (∀ k : Fin 6, State.reset.rkr[k] = 0) ∧
  (∀ (i : Fin 32) (k : Fin 6), State.reset.sched[i][k] = 0) ∧
  (∀ a : Fin 32, State.reset.keyb[a] = 0) ∧ (∀ a : Fin 16, State.reset.blk[a] = 0) ∧
  State.reset.status = ⟨false, false, 0, 0⟩ ∧ State.reset.status.word = 0

/-- R117: Reset at command level and at the port. The event maps any state to the reset state and gives no response. At the
port, both outputs are 0 in a cycle with `rst = 1`, the edge resets the state and abandons the command in flight, and in
the next cycle with `rst = 0` the block is ready (in that very cycle: the model's reading, log entry 8). -/
def Obligations.ResetFromAnyState : Prop :=
  (∀ (rest : List PortEvent) (s : State), s.inbox = .reset :: rest →
    step s = .next { State.reset with inbox := rest } ∧
    ∀ delta, stepWith delta s = .next { State.reset with inbox := rest }) ∧
  (∀ (delta : Vector Word 8) (p : PortState) (cv : Bool) (C : BitVec 16) (d : Word),
    portOut p ⟨true, cv, C, d⟩ = ⟨false, none⟩ ∧
    ∃ q, portEdge delta p ⟨true, cv, C, d⟩ = .next q ∧ q.core = { State.reset with inbox := p.core.inbox } ∧
      ∀ inp : PortIn, inp.rst = false → portOut q inp = ⟨true, none⟩)

/-- A step in which the host presents nothing changes no state of the block and gives no response (R116; that such a step
exists is the model's choice, log entry 4). -/
def Obligations.IdleStepHoldsTheState : Prop :=
  ∀ s : State, s.inbox = [] → step s = .next { s with rsp := none }

/-- R123: every step answers a next state, and an accepted command gets a response, whatever the state, the command word
and the data operand. -/
def Obligations.EveryCommandResponds : Prop :=
  (∀ s : State, ∃ t, step s = .next t) ∧
  ∀ (C : BitVec 16) (d : Word) (rest : List PortEvent) (s : State), s.inbox = .command C d :: rest →
    ∃ t r, step s = .next t ∧ t.rsp = some r ∧ t.inbox = rest

/-! ## System commands (`45_system.md`) -/

/-- R98. -/
def Obligations.NopChangesNothing : Prop :=
  encode .nop = 0x0000 ∧ IllegalWords (fun C => opcode C = 0x00 ∧ C.extractLsb' 0 11 ≠ 0) ∧
  ∀ s : State, exec .nop s = .next { s with rsp := some ⟨0, 0⟩ }

/-- R99, with the places of the fields (R17). -/
def Obligations.RdstReadsStatus : Prop :=
  encode .rdst = 0x0800 ∧ IllegalWords (fun C => opcode C = 0x01 ∧ C.extractLsb' 0 11 ≠ 0) ∧
  ∀ s : State, ∃ d : Word, exec .rdst s = .next { s with rsp := some ⟨0, d⟩ } ∧
    d.getLsbD 0 = s.status.svalid ∧ d.getLsbD 1 = s.status.sdir ∧ d.extractLsb' 2 6 = s.status.snr ∧
    d.extractLsb' 8 4 = s.status.err ∧ d.extractLsb' 12 20 = 0

/-- R100: `CLRE` clears `STATUS.ERR`, and no other command does. -/
def Obligations.ClreClearsTheError : Prop :=
  encode .clre = 0x1000 ∧ IllegalWords (fun C => opcode C = 0x02 ∧ C.extractLsb' 0 11 ≠ 0) ∧
  (∀ s : State, exec .clre s = .next { s with status := { s.status with err := 0 }, rsp := some ⟨0, 0⟩ }) ∧
  ∀ (i : Instr) (s t : State), exec i s = .next t → s.status.err ≠ 0 → t.status.err = 0 → i = .clre

/-! ## Access commands (`44_access.md`) -/

/-- R88. -/
def Obligations.WrkbWritesOneKeyByte : Prop :=
  (∀ a, (encode (.wrkb a)).toNat = 0x2000 + a.toNat) ∧
  IllegalWords (fun C => opcode C = 0x04 ∧ C.extractLsb' 5 6 ≠ 0) ∧
  ∀ (a : BitVec 5) (s : State), ∃ K : Vector Byte 32,
    exec (.wrkb a) s = .next { s with keyb := K, rsp := some ⟨0, 0⟩ } ∧
    ∀ b : Fin 32, K[b] = if b.val = a.toNat then s.wdata.extractLsb' 0 8 else s.keyb[b]

/-- R89. -/
def Obligations.RdkbReadsOneKeyByte : Prop :=
  (∀ a, (encode (.rdkb a)).toNat = 0x2800 + a.toNat) ∧
  IllegalWords (fun C => opcode C = 0x05 ∧ C.extractLsb' 5 6 ≠ 0) ∧
  ∀ (a : BitVec 5) (s : State), ∃ d : Word,
    exec (.rdkb a) s = .next { s with rsp := some ⟨0, d⟩ } ∧
    d.toNat = (s.keyb[a.toNat]'(by omega)).toNat

/-- R90. -/
def Obligations.WrbbWritesOneBlockByte : Prop :=
  (∀ a, (encode (.wrbb a)).toNat = 0x3000 + a.toNat) ∧
  IllegalWords (fun C => opcode C = 0x06 ∧ C.extractLsb' 4 7 ≠ 0) ∧
  ∀ (a : BitVec 4) (s : State), ∃ B : Vector Byte 16,
    exec (.wrbb a) s = .next { s with blk := B, rsp := some ⟨0, 0⟩ } ∧
    ∀ b : Fin 16, B[b] = if b.val = a.toNat then s.wdata.extractLsb' 0 8 else s.blk[b]

/-- R91, and of R30: byte `n` of a word stored by `W2B` reads back as its bits `8n+7:8n`. -/
def Obligations.RdbbReadsOneBlockByte : Prop :=
  (∀ a, (encode (.rdbb a)).toNat = 0x3800 + a.toNat) ∧
  IllegalWords (fun C => opcode C = 0x07 ∧ C.extractLsb' 4 7 ≠ 0) ∧
  (∀ (a : BitVec 4) (s : State), ∃ d : Word,
    exec (.rdbb a) s = .next { s with rsp := some ⟨0, d⟩ } ∧
    d.toNat = (s.blk[a.toNat]'(by omega)).toNat) ∧
  ∀ (j n : BitVec 2) (s : State), ∃ t u r, exec (.w2b j) s = .next t ∧ exec (.rdbb (j ++ n)) t = .next u ∧
    u.rsp = some r ∧ r.rdata = ((s.x[j.toNat]'(by omega)).extractLsb' (8 * n.toNat) 8).setWidth 32

/-- R92. -/
def Obligations.WrxWritesOneStateWord : Prop :=
  (∀ j, (encode (.wrx j)).toNat = 0x4000 + j.toNat) ∧
  IllegalWords (fun C => opcode C = 0x08 ∧ C.extractLsb' 2 9 ≠ 0) ∧
  ∀ (j : BitVec 2) (s : State), ∃ X : Vector Word 4,
    exec (.wrx j) s = .next { s with x := X, rsp := some ⟨0, 0⟩ } ∧
    ∀ m : Fin 4, X[m] = if m.val = j.toNat then s.wdata else s.x[m]

/-- R93. -/
def Obligations.RdxReadsOneStateWord : Prop :=
  (∀ j, (encode (.rdx j)).toNat = 0x4800 + j.toNat) ∧
  IllegalWords (fun C => opcode C = 0x09 ∧ C.extractLsb' 2 9 ≠ 0) ∧
  ∀ (j : BitVec 2) (s : State), exec (.rdx j) s = .next { s with rsp := some ⟨0, s.x[j.toNat]'(by omega)⟩ }

/-- R94. -/
def Obligations.WrrkWritesOneRoundKeyWord : Prop :=
  (∀ k, (encode (.wrrk k)).toNat = 0x5000 + k.toNat) ∧
  IllegalWords (fun C => opcode C = 0x0A ∧ C.extractLsb' 3 8 ≠ 0) ∧
  ∀ (k : BitVec 3) (s : State),
    if k.toNat > 5 then exec (.wrrk k) s = .next (failed 6 s)
    else ∃ R : Vector Word 6, exec (.wrrk k) s = .next { s with rkr := R, rsp := some ⟨0, 0⟩ } ∧
      ∀ m : Fin 6, R[m] = if m.val = k.toNat then s.wdata else s.rkr[m]

/-- R95. -/
def Obligations.RdrkReadsOneRoundKeyWord : Prop :=
  (∀ k, (encode (.rdrk k)).toNat = 0x5800 + k.toNat) ∧
  IllegalWords (fun C => opcode C = 0x0B ∧ C.extractLsb' 3 8 ≠ 0) ∧
  ∀ (k : BitVec 3) (s : State),
    if h : k.toNat < 6 then exec (.rdrk k) s = .next { s with rsp := some ⟨0, s.rkr[k.toNat]⟩ }
    else exec (.rdrk k) s = .next (failed 6 s)

/-- The pseudocode, encoding and errors of R96. -/
def Obligations.LdrkCopiesOneRow : Prop :=
  (∀ i, (encode (.ldrk i)).toNat = 0x6000 + i.toNat) ∧
  IllegalWords (fun C => opcode C = 0x0C ∧ C.extractLsb' 5 6 ≠ 0) ∧
  ∀ (i : BitVec 5) (s : State),
    if s.status.svalid = false then exec (.ldrk i) s = .next (failed 4 s)
    else if s.status.snr.toNat ≤ i.toNat then exec (.ldrk i) s = .next (failed 6 s)
    else exec (.ldrk i) s = .next { s with rkr := s.sched[i.toNat]'(by omega), rsp := some ⟨0, 0⟩ }

/-- The pseudocode, encoding and errors of R97. -/
def Obligations.RdskReadsOneScheduleWord : Prop :=
  (∀ i k, (encode (.rdsk i k)).toNat = 0x6800 + 8 * i.toNat + k.toNat) ∧
  IllegalWords (fun C => opcode C = 0x0D ∧ C.extractLsb' 8 3 ≠ 0) ∧
  ∀ (i : BitVec 5) (k : BitVec 3) (s : State),
    if s.status.svalid = false then exec (.rdsk i k) s = .next (failed 4 s)
    else if h : i.toNat < s.status.snr.toNat ∧ k.toNat < 6 then
      exec (.rdsk i k) s = .next { s with rsp := some ⟨0, (s.sched[i.toNat]'(by omega))[k.toNat]⟩ }
    else exec (.rdsk i k) s = .next (failed 6 s)

/-! ## Word Codec (`40_word_codec.md`) -/

/-- R51 and R52: where each byte of a word is, and that the two functions are inverse to each other. -/
def Obligations.BytesAndWordsRoundTrip : Prop :=
  (∀ b0 b1 b2 b3 : Byte,
    (bytesToWord b0 b1 b2 b3).toNat = b0.toNat + 256 * b1.toNat + 65536 * b2.toNat + 16777216 * b3.toNat ∧
    (bytesToWord b0 b1 b2 b3).extractLsb' 0 8 = b0 ∧ (bytesToWord b0 b1 b2 b3).extractLsb' 8 8 = b1 ∧
    (bytesToWord b0 b1 b2 b3).extractLsb' 16 8 = b2 ∧ (bytesToWord b0 b1 b2 b3).extractLsb' 24 8 = b3 ∧
    wordToBytes (bytesToWord b0 b1 b2 b3) = #v[b0, b1, b2, b3]) ∧
  ∀ w : Word, (∀ n : Fin 4, (wordToBytes w)[n] = w.extractLsb' (8 * n.val) 8) ∧
    bytesToWord (wordToBytes w)[0] (wordToBytes w)[1] (wordToBytes w)[2] (wordToBytes w)[3] = w

/-- R53 and R54: which bit of the argument each bit of a rotation's result is, for every amount. -/
def Obligations.RotationMovesBits : Prop :=
  ∀ (w : Word) (r p : Nat), p < 32 →
    (rotateLeft w r).getLsbD p = w.getLsbD ((p + (32 - r % 32)) % 32) ∧
    (rotateRight w r).getLsbD p = w.getLsbD ((p + r) % 32) ∧
    (r % 32 ≠ 0 → rotateRight w r = rotateLeft w (32 - r % 32))

/-- R55. -/
def Obligations.RotationsInvertAndCompose : Prop :=
  ∀ (w : Word) (r q : Nat),
    rotateLeft (rotateRight w r) r = w ∧ rotateRight (rotateLeft w r) r = w ∧
    rotateLeft w (32 * q) = w ∧ rotateRight w (32 * q) = w ∧
    rotateLeft (rotateLeft w r) q = rotateLeft w (r + q)

/-- R58. -/
def Obligations.B2wComposesOneWord : Prop :=
  (∀ j, (encode (.b2w j)).toNat = 0x8000 + j.toNat) ∧
  IllegalWords (fun C => opcode C = 0x10 ∧ C.extractLsb' 2 9 ≠ 0) ∧
  ∀ (j : BitVec 2) (s : State), ∃ X : Vector Word 4,
    exec (.b2w j) s = .next { s with x := X, rsp := some ⟨0, 0⟩ } ∧
    ∀ m : Fin 4, X[m] =
      if m.val = j.toNat then
        bytesToWord s.blk[4 * m.val] s.blk[4 * m.val + 1] s.blk[4 * m.val + 2] s.blk[4 * m.val + 3]
      else s.x[m]

/-- R59, its two corner cases included: `B2W` and `W2B` of one word undo each other. -/
def Obligations.W2bStoresOneWord : Prop :=
  (∀ j, (encode (.w2b j)).toNat = 0x8800 + j.toNat) ∧
  IllegalWords (fun C => opcode C = 0x11 ∧ C.extractLsb' 2 9 ≠ 0) ∧
  (∀ (j : BitVec 2) (s : State), ∃ B : Vector Byte 16,
    exec (.w2b j) s = .next { s with blk := B, rsp := some ⟨0, 0⟩ } ∧
    ∀ a : Fin 16, B[a] =
      if a.val / 4 = j.toNat then (s.x[j.toNat]'(by omega)).extractLsb' (8 * (a.val % 4)) 8 else s.blk[a]) ∧
  ∀ (j : BitVec 2) (s : State),
    (∃ t u, exec (.b2w j) s = .next t ∧ exec (.w2b j) t = .next u ∧ u.blk = s.blk) ∧
    (∃ t u, exec (.w2b j) s = .next t ∧ exec (.b2w j) t = .next u ∧ u.x = s.x)

/-- R60: the result, and that only `r mod 32` matters. -/
def Obligations.RolRotatesOneWordLeft : Prop :=
  (∀ j r, (encode (.rol j r)).toNat = 0x9000 + 256 * j.toNat + r.toNat) ∧
  IllegalWords (fun C => opcode C = 0x12 ∧ C.getLsbD 10 = true) ∧
  ∀ (j : BitVec 2) (r : BitVec 8) (s : State), ∃ X : Vector Word 4,
    exec (.rol j r) s = .next { s with x := X, rsp := some ⟨0, 0⟩ } ∧
    exec (.rol j (r + 32)) s = .next { s with x := X, rsp := some ⟨0, 0⟩ } ∧
    (r.toNat % 32 = 0 → X = s.x) ∧
    ∀ m : Fin 4, X[m] = if m.val = j.toNat then rotateLeft s.x[m] r.toNat else s.x[m]

/-- R61: the result, and that `ROL` by the same amount restores the word. -/
def Obligations.RorRotatesOneWordRight : Prop :=
  (∀ j r, (encode (.ror j r)).toNat = 0x9800 + 256 * j.toNat + r.toNat) ∧
  IllegalWords (fun C => opcode C = 0x13 ∧ C.getLsbD 10 = true) ∧
  ∀ (j : BitVec 2) (r : BitVec 8) (s : State), ∃ (X : Vector Word 4) (u : State),
    exec (.ror j r) s = .next { s with x := X, rsp := some ⟨0, 0⟩ } ∧
    exec (.ror j (r + 32)) s = .next { s with x := X, rsp := some ⟨0, 0⟩ } ∧
    (r.toNat % 32 = 0 → X = s.x) ∧
    (∀ m : Fin 4, X[m] = if m.val = j.toNat then rotateRight s.x[m] r.toNat else s.x[m]) ∧
    exec (.rol j r) { s with x := X, rsp := some ⟨0, 0⟩ } = .next u ∧ u.x = s.x

/-! ## Key Schedule Generator (`41_key_schedule.md`) -/

/-- R68 with R65 and R66, for every table of round constants: some sequence of working arrays `T` starts at the key words,
each round rewrites `T[0..3]` by the recurrence, and round key `i` is `[T0, T1, T2, T1, T3, T1]` after round `i`. -/
def Obligations.Expand128FollowsTheRecurrence : Prop :=
  ∀ (delta : Vector Word 8) (key : Vector Byte 16), ∃ T : Nat → Fin 4 → Word,
    (∀ j : Fin 4, T 0 j = bytesToWord key[4 * j.val] key[4 * j.val + 1] key[4 * j.val + 2] key[4 * j.val + 3]) ∧
    (∀ i < 24, ∀ k : Fin 4, T (i + 1) k =
      rotateLeft (T i k + rotateLeft (delta[i % 4]'(by omega)) (i + k.val)) (#v[1, 3, 6, 11][k])) ∧
    (expand128 delta key).length = 24 ∧
    ∀ (i : Nat) (h : i < (expand128 delta key).length), (expand128 delta key)[i] =
      #v[T (i + 1) 0, T (i + 1) 1, T (i + 1) 2, T (i + 1) 1, T (i + 1) 3, T (i + 1) 1]

/-- R69 with R65 and R66. -/
def Obligations.Expand192FollowsTheRecurrence : Prop :=
  ∀ (delta : Vector Word 8) (key : Vector Byte 24), ∃ T : Nat → Fin 6 → Word,
    (∀ j : Fin 6, T 0 j = bytesToWord key[4 * j.val] key[4 * j.val + 1] key[4 * j.val + 2] key[4 * j.val + 3]) ∧
    (∀ i < 28, ∀ k : Fin 6, T (i + 1) k =
      rotateLeft (T i k + rotateLeft (delta[i % 6]'(by omega)) (i + k.val)) (#v[1, 3, 6, 11, 13, 17][k])) ∧
    (expand192 delta key).length = 28 ∧
    ∀ (i : Nat) (h : i < (expand192 delta key).length) (k : Fin 6), (expand192 delta key)[i][k] = T (i + 1) k

/-- R70 with R65 and R66: update `k` of round `i` targets `T[(6i + k) mod 8]`, the two words outside the window keep their
values, and the round key takes the six targets in order. -/
def Obligations.Expand256FollowsTheRecurrence : Prop :=
  ∀ (delta : Vector Word 8) (key : Vector Byte 32), ∃ T : Nat → Nat → Word,
    (∀ j : Fin 8, T 0 j = bytesToWord key[4 * j.val] key[4 * j.val + 1] key[4 * j.val + 2] key[4 * j.val + 3]) ∧
    (∀ i < 32, (∀ k : Fin 6, T (i + 1) ((6 * i + k.val) % 8) =
        rotateLeft (T i ((6 * i + k.val) % 8) + rotateLeft (delta[i % 8]'(by omega)) (i + k.val))
          (#v[1, 3, 6, 11, 13, 17][k])) ∧
      T (i + 1) ((6 * i + 6) % 8) = T i ((6 * i + 6) % 8) ∧ T (i + 1) ((6 * i + 7) % 8) = T i ((6 * i + 7) % 8)) ∧
    (expand256 delta key).length = 32 ∧
    ∀ (i : Nat) (h : i < (expand256 delta key).length) (k : Fin 6),
      (expand256 delta key)[i][k] = T (i + 1) ((6 * i + k.val) % 8)

/-- R71: the two failures in their order, and where each round key goes. -/
def Obligations.BuildScheduleChecksThenPlaces : Prop :=
  ∀ (delta : Vector Word 8) (key : List Byte) (direction : BitVec 2),
    (key.length ∉ [16, 24, 32] → buildSchedule delta key direction = .error .keyLen) ∧
    (key.length ∈ [16, 24, 32] → direction ∉ [0, 1] → buildSchedule delta key direction = .error .dir) ∧
    (key.length ∈ [16, 24, 32] → direction ∈ [0, 1] → ∃ EK S : KeySchedule,
      (∀ h : key.length = 16, EK = expand128 delta ⟨key.toArray, by simpa using h⟩) ∧
      (∀ h : key.length = 24, EK = expand192 delta ⟨key.toArray, by simpa using h⟩) ∧
      (∀ h : key.length = 32, EK = expand256 delta ⟨key.toArray, by simpa using h⟩) ∧
      buildSchedule delta key direction = .ok S ∧ S.length = EK.length ∧
      ∀ (i : Nat) (h : i < EK.length),
        (direction = 0 → S[i]? = some EK[i]) ∧ (direction = 1 → S[EK.length - 1 - i]? = some EK[i]))

/-- R72: the Decrypt schedule of a key is its Encrypt schedule in reverse position order. -/
def Obligations.DecryptScheduleIsReversed : Prop :=
  ∀ (delta : Vector Word 8) (key : List Byte), key.length ∈ [16, 24, 32] →
    ∃ E D : KeySchedule, buildSchedule delta key 0 = .ok E ∧ buildSchedule delta key 1 = .ok D ∧
      D.length = E.length ∧ ∀ i < E.length, D[i]? = E[E.length - 1 - i]?

/-- R73: schedule length, 128-bit key redundancy, invalid key rejection. -/
def Obligations.ScheduleLengthAndRedundancy : Prop :=
  ∀ (delta : Vector Word 8) (key : List Byte) (direction : BitVec 2),
    (∀ S, buildSchedule delta key direction = .ok S →
      (key.length = 16 → S.length = 24 ∧ ∀ rk ∈ S, rk[1] = rk[3] ∧ rk[3] = rk[5]) ∧
      (key.length = 24 → S.length = 28) ∧ (key.length = 32 → S.length = 32)) ∧
    (key.length = 10 → buildSchedule delta key direction = .error .keyLen)

/-- R75, for every table of round constants, `execWith delta`. That `exec` runs `KSCHED` with the default table is the model's choice
(log entry 1). -/
def Obligations.KschedBuildsTheSchedule : Prop :=
  (∀ klen dir, (encode (.ksched klen dir)).toNat = 0xA000 + 64 * dir.toNat + klen.toNat) ∧
  IllegalWords (fun C => opcode C = 0x14 ∧ C.extractLsb' 8 3 ≠ 0) ∧
  (∀ klen dir s, exec (.ksched klen dir) s = kschedWith Config.delta klen dir s) ∧
  (∀ delta klen dir s, execWith delta (.ksched klen dir) s = kschedWith delta klen dir s) ∧
  ∀ (delta : Vector Word 8) (klen : BitVec 6) (dir : BitVec 2) (s : State),
    if klen.toNat ∉ [16, 24, 32] then kschedWith delta klen dir s = .next (failed 1 s)
    else if dir.toNat ∉ [0, 1] then kschedWith delta klen dir s = .next (failed 2 s)
    else ∃ (key : List Byte) (S : KeySchedule) (rows : Vector RoundKey 32),
      key = s.keyb.toList.take klen.toNat ∧ buildSchedule delta key dir = .ok S ∧
      kschedWith delta klen dir s = .next { s with
        sched := rows
        status := { s.status with svalid := true, sdir := dir.getLsbD 0, snr := BitVec.ofNat 6 S.length }
        rsp := some ⟨0, 0⟩ } ∧
      (klen = 16 → S.length = 24) ∧ (klen = 24 → S.length = 28) ∧ (klen = 32 → S.length = 32) ∧
      ∀ i : Fin 32, if h : i.val < S.length then rows[i] = S[i.val] else rows[i] = s.sched[i]

/-- The completion of `KSCHED` on its own terms: with a legal length and direction it succeeds in every state, with the
default table (log entry 1; nothing here rests on its values), and a schedule is then there. -/
def Obligations.KschedSucceeds : Prop :=
  ∀ (klen : BitVec 6) (dir : BitVec 2) (s : State), klen ∈ [16, 24, 32] → dir ∈ [0, 1] →
    ∃ t, exec (.ksched klen dir) s = .next t ∧ t.rsp = some ⟨0, 0⟩ ∧ t.status.svalid = true ∧
      t.status.sdir = decide (dir = 1) ∧ t.status.err = s.status.err ∧
      buildSchedule Config.delta (s.keyb.toList.take klen.toNat) dir = .ok t.schedule

/-! ## Round Transform (`42_round_transform.md`) -/

/-- R78: each round function undoes the other, for every state and every round key. -/
def Obligations.RoundsAreInverse : Prop :=
  ∀ (x : Vector Word 4) (rk : RoundKey),
    decryptRound (encryptRound x rk) rk = x ∧ encryptRound (decryptRound x rk) rk = x

/-- R80 with the formulas of R76. -/
def Obligations.EncrAppliesOneRound : Prop :=
  encode .encr = 0xB000 ∧ IllegalWords (fun C => opcode C = 0x16 ∧ C.extractLsb' 0 11 ≠ 0) ∧
  ∀ s : State, ∃ X : Vector Word 4, exec .encr s = .next { s with x := X, rsp := some ⟨0, 0⟩ } ∧
    X[0] = rotateLeft ((s.x[0] ^^^ s.rkr[0]) + (s.x[1] ^^^ s.rkr[1])) 9 ∧
    X[1] = rotateRight ((s.x[1] ^^^ s.rkr[2]) + (s.x[2] ^^^ s.rkr[3])) 5 ∧
    X[2] = rotateRight ((s.x[2] ^^^ s.rkr[4]) + (s.x[3] ^^^ s.rkr[5])) 3 ∧
    X[3] = s.x[0]

/-- R81 with the formulas of R77, a chain; and `DECR` after `ENCR`, `ENCR` after `DECR`, restore `X`. -/
def Obligations.DecrAppliesOneInverseRound : Prop :=
  encode .decr = 0xB800 ∧ IllegalWords (fun C => opcode C = 0x17 ∧ C.extractLsb' 0 11 ≠ 0) ∧
  (∀ s : State, ∃ X : Vector Word 4, exec .decr s = .next { s with x := X, rsp := some ⟨0, 0⟩ } ∧
    X[0] = s.x[3] ∧
    X[1] = (rotateRight s.x[0] 9 - (X[0] ^^^ s.rkr[0])) ^^^ s.rkr[1] ∧
    X[2] = (rotateLeft s.x[1] 5 - (X[1] ^^^ s.rkr[2])) ^^^ s.rkr[3] ∧
    X[3] = (rotateLeft s.x[2] 3 - (X[2] ^^^ s.rkr[4])) ^^^ s.rkr[5]) ∧
  ∀ s : State,
    (∃ t u, exec .encr s = .next t ∧ exec .decr t = .next u ∧ u.x = s.x) ∧
    (∃ t u, exec .decr s = .next t ∧ exec .encr t = .next u ∧ u.x = s.x)

/-! ## Block Driver (`43_block_driver.md`) -/

/-- R84: decryption under the Decrypt schedule undoes encryption under the Encrypt schedule of the same key, and the
converse, for every table of round constants, every legal key and every block. -/
def Obligations.BlockRoundTrip : Prop :=
  ∀ (delta : Vector Word 8) (key : List Byte) (E D : KeySchedule) (P : Vector Byte 16),
    buildSchedule delta key 0 = .ok E → buildSchedule delta key 1 = .ok D →
      decryptBlock (encryptBlock P E) D = P ∧ encryptBlock (decryptBlock P D) E = P

/-- R86: the two checks in their order; else `SNR` rounds over the words of `BLK`, the final words left in `X`. (`SNR` is at
most 32 in every state that is reached: `StepKeepsTheInvariant`.) -/
def Obligations.EncbEncryptsTheBlock : Prop :=
  encode .encb = 0xC000 ∧ IllegalWords (fun C => opcode C = 0x18 ∧ C.extractLsb' 0 11 ≠ 0) ∧
  ∀ s : State, s.status.Legal →
    if s.status.svalid = false then exec .encb s = .next (failed 4 s)
    else if s.status.sdir = true then exec .encb s = .next (failed 5 s)
    else ∃ (w : Nat → Vector Word 4) (X : Vector Word 4) (B : Vector Byte 16),
      exec .encb s = .next { s with x := X, blk := B, rsp := some ⟨0, 0⟩ } ∧
      (∀ j : Fin 4, (w 0)[j] =
        bytesToWord s.blk[4 * j.val] s.blk[4 * j.val + 1] s.blk[4 * j.val + 2] s.blk[4 * j.val + 3]) ∧
      (∀ i : Fin 32, i.val < s.status.snr.toNat → w (i.val + 1) = encryptRound (w i.val) s.sched[i]) ∧
      X = w s.status.snr.toNat ∧
      (∀ a : Fin 16, B[a] = (X[a.val / 4]).extractLsb' (8 * (a.val % 4)) 8) ∧
      B = encryptBlock s.blk (s.sched.toList.take s.status.snr.toNat)

/-- R87: as R86 with the direction test inverted and `decryptRound`. -/
def Obligations.DecbDecryptsTheBlock : Prop :=
  encode .decb = 0xC800 ∧ IllegalWords (fun C => opcode C = 0x19 ∧ C.extractLsb' 0 11 ≠ 0) ∧
  ∀ s : State, s.status.Legal →
    if s.status.svalid = false then exec .decb s = .next (failed 4 s)
    else if s.status.sdir = false then exec .decb s = .next (failed 5 s)
    else ∃ (w : Nat → Vector Word 4) (X : Vector Word 4) (B : Vector Byte 16),
      exec .decb s = .next { s with x := X, blk := B, rsp := some ⟨0, 0⟩ } ∧
      (∀ j : Fin 4, (w 0)[j] =
        bytesToWord s.blk[4 * j.val] s.blk[4 * j.val + 1] s.blk[4 * j.val + 2] s.blk[4 * j.val + 3]) ∧
      (∀ i : Fin 32, i.val < s.status.snr.toNat → w (i.val + 1) = decryptRound (w i.val) s.sched[i]) ∧
      X = w s.status.snr.toNat ∧
      (∀ a : Fin 16, B[a] = (X[a.val / 4]).extractLsb' (8 * (a.val % 4)) 8) ∧
      B = decryptBlock s.blk (s.sched.toList.take s.status.snr.toNat)

/-- R84 on the machine, for every table of round constants: from any state, for each key length, building the Encrypt schedule,
encrypting, building the Decrypt schedule on the one slot and decrypting all succeed and leave the block and the key as they
were. (`exec` runs the default table, log entry 1; the second clause says the same of it.) -/
def Obligations.MachineRoundTrip : Prop :=
  (∀ (delta : Vector Word 8) (klen : BitVec 6) (s : State), klen ∈ [16, 24, 32] → ∃ s1 s2 s3 s4 : State,
    execWith delta (.ksched klen 0) s = .next s1 ∧ execWith delta .encb s1 = .next s2 ∧
    execWith delta (.ksched klen 1) s2 = .next s3 ∧ execWith delta .decb s3 = .next s4 ∧
    s1.rsp = some ⟨0, 0⟩ ∧ s2.rsp = some ⟨0, 0⟩ ∧ s3.rsp = some ⟨0, 0⟩ ∧ s4.rsp = some ⟨0, 0⟩ ∧
    s4.blk = s.blk ∧ s4.keyb = s.keyb ∧ s4.rkr = s.rkr ∧ s4.status.err = s.status.err) ∧
  ∀ (klen : BitVec 6) (s : State), klen ∈ [16, 24, 32] → ∃ s1 s2 s3 s4 : State,
    exec (.ksched klen 0) s = .next s1 ∧ exec .encb s1 = .next s2 ∧
    exec (.ksched klen 1) s2 = .next s3 ∧ exec .decb s3 = .next s4 ∧
    s1.rsp = some ⟨0, 0⟩ ∧ s2.rsp = some ⟨0, 0⟩ ∧ s3.rsp = some ⟨0, 0⟩ ∧ s4.rsp = some ⟨0, 0⟩ ∧
    s4.blk = s.blk ∧ s4.keyb = s.keyb ∧ s4.rkr = s.rkr ∧ s4.status.err = s.status.err

/-- Of R96: stepping a block through the rounds by hand with `B2W`, `LDRK`, `ENCR` (or `DECR`) and `W2B` leaves `BLK` and `X`
exactly as the one block command does (R86, R87); and it succeeds "whatever `SDIR` is": with `ENCR` it leaves the fold of
`encryptRound` over the rows there are, also under a Decrypt schedule, and with `DECR` that of `decryptRound`. -/
def Obligations.HandSteppingEqualsTheBlockCommand : Prop :=
  ∀ s : State, s.status.Legal → s.status.svalid = true →
    (∃ u, execAll (handStepping s.status.snr.toNat .encr) s = .next u ∧
      u.blk = encryptBlock s.blk (s.sched.toList.take s.status.snr.toNat) ∧ u.x = blockToWords u.blk ∧
      (s.status.sdir = false → ∃ t, exec .encb s = .next t ∧ u.blk = t.blk ∧ u.x = t.x)) ∧
    (∃ u, execAll (handStepping s.status.snr.toNat .decr) s = .next u ∧
      u.blk = decryptBlock s.blk (s.sched.toList.take s.status.snr.toNat) ∧ u.x = blockToWords u.blk ∧
      (s.status.sdir = true → ∃ t, exec .decb s = .next t ∧ u.blk = t.blk ∧ u.x = t.x))

/-! ## Errors (`60_exceptions.md`) -/

/-- R103: exactly when each command answers each error code; no other code is ever answered, and code 3 by no command
(by illegal words only: `IllegalWordsFail`). -/
def Obligations.ErrorsExactlyWhen : Prop :=
  ∀ (i : Instr) (s : State), ∃ t r, exec i s = .next t ∧ t.rsp = some r ∧
    (r.err = 1 ↔ ∃ klen dir, i = .ksched klen dir ∧ klen.toNat ∉ [16, 24, 32]) ∧
    (r.err = 2 ↔ ∃ klen dir, i = .ksched klen dir ∧ klen.toNat ∈ [16, 24, 32] ∧ dir.toNat ∈ [2, 3]) ∧
    (r.err = 4 ↔ s.status.svalid = false ∧
      (i = .encb ∨ i = .decb ∨ (∃ row, i = .ldrk row) ∨ ∃ row k, i = .rdsk row k)) ∧
    (r.err = 5 ↔ s.status.svalid = true ∧
      ((i = .encb ∧ s.status.sdir = true) ∨ (i = .decb ∧ s.status.sdir = false))) ∧
    (r.err = 6 ↔ (∃ k, (i = .wrrk k ∨ i = .rdrk k) ∧ 6 ≤ k.toNat) ∨
      (s.status.svalid = true ∧ ((∃ row, i = .ldrk row ∧ s.status.snr.toNat ≤ row.toNat) ∨
        ∃ row k, i = .rdsk row k ∧ (s.status.snr.toNat ≤ row.toNat ∨ 6 ≤ k.toNat)))) ∧
    r.err ≠ 3 ∧ r.err.toNat ≤ 6

/-- R107: a command that fails, an illegal word too, has changed nothing but `STATUS.ERR`, and returns no data. -/
def Obligations.FailedCommandChangesOnlyErr : Prop :=
  ∀ (C : BitVec 16) (d : Word) (rest : List PortEvent) (s t : State) (r : Response),
    s.inbox = .command C d :: rest → step s = .next t → t.rsp = some r → r.err ≠ 0 → t = failed r.err (accepted d rest s)

/-- R108: `STATUS.ERR` keeps the first code, only `CLRE` changes it otherwise, and a nonzero `ERR` blocks, alters and fails
nothing (only `RDST` shows it). -/
def Obligations.FirstErrorSticks : Prop :=
  ∀ (C : BitVec 16) (d : Word) (rest : List PortEvent) (s : State), s.inbox = .command C d :: rest →
    (decode C ≠ .ok .clre → ∃ t r, step s = .next t ∧ t.rsp = some r ∧
      t.status.err = if s.status.err = 0 then r.err else s.status.err) ∧
    ∀ e : BitVec 4, ∃ t t' : State,
      step s = .next t ∧ step { s with status := { s.status with err := e } } = .next t' ∧
      t'.rsp.map (·.err) = t.rsp.map (·.err) ∧ (decode C ≠ .ok .rdst → t'.rsp = t.rsp) ∧
      { t' with rsp := none, status := { t'.status with err := 0 } } =
        { t with rsp := none, status := { t.status with err := 0 } }

/-! ## The whole machine -/

/-- The write columns of R25: which commands may change each piece of state, `STATUS.ERR` (`CLRE`, and a failed command) too. -/
def Obligations.WhoWritesWhat : Prop :=
  ∀ (i : Instr) (s t : State), exec i s = .next t →
    (t.x ≠ s.x → (∃ j, i = .wrx j ∨ i = .b2w j) ∨ (∃ j r, i = .rol j r ∨ i = .ror j r) ∨
      i = .encr ∨ i = .decr ∨ i = .encb ∨ i = .decb) ∧
    (t.rkr ≠ s.rkr → (∃ k, i = .wrrk k) ∨ ∃ row, i = .ldrk row) ∧
    (t.keyb ≠ s.keyb → ∃ a, i = .wrkb a) ∧
    (t.blk ≠ s.blk → (∃ a, i = .wrbb a) ∨ (∃ j, i = .w2b j) ∨ i = .encb ∨ i = .decb) ∧
    ((∀ klen dir, i ≠ .ksched klen dir) → t.sched = s.sched ∧ t.status.svalid = s.status.svalid ∧
      t.status.sdir = s.status.sdir ∧ t.status.snr = s.status.snr) ∧
    (t.status.err ≠ s.status.err → i = .clre ∨ ∃ r, t.rsp = some r ∧ r.err ≠ 0) ∧
    t.inbox = s.inbox ∧ t.wdata = s.wdata

/-- Of R42: `WDATA` is ignored by every command but `WRKB`, `WRBB`, `WRX` and `WRRK`, and the two byte writes ignore
`WDATA[31:8]`. -/
def Obligations.DataOperandIgnored : Prop :=
  ∀ (i : Instr) (s t : State) (d : Word), exec i s = .next t →
    ((∀ a, i ≠ .wrkb a) ∧ (∀ a, i ≠ .wrbb a) ∧ (∀ j, i ≠ .wrx j) ∧ (∀ k, i ≠ .wrrk k) ∨
      ((∃ a, i = .wrkb a) ∨ ∃ a, i = .wrbb a) ∧ d.extractLsb' 0 8 = s.wdata.extractLsb' 0 8) →
    exec i { s with wdata := d } = .next { t with wdata := d }

/-- Of R42: `RDATA` is zero but for a read command that succeeds, and those change no state. -/
def Obligations.OnlyReadsReturnData : Prop :=
  ∀ (i : Instr) (s t : State), exec i s = .next t → ∃ r, t.rsp = some r ∧
    (r.rdata ≠ 0 → r.err = 0 ∧ t = { s with rsp := some r } ∧
      (i = .rdst ∨ (∃ a, i = .rdkb a) ∨ (∃ a, i = .rdbb a) ∨ (∃ j, i = .rdx j) ∨ (∃ k, i = .rdrk k) ∨
        ∃ row k, i = .rdsk row k))

/-- R12, "Nothing else persists from one command to the next": what the next event does depends on no earlier data operand and
no earlier response (the fields that hold them are the model's own: log entries 3, 4). -/
def Obligations.NothingElsePersists : Prop :=
  ∀ (s : State) (d : Word) (r : Option Response), s.inbox ≠ [] → step { s with wdata := d, rsp := r } = step s

/-- R17, R18: every step keeps the invariant, from every state that has it; so does every step of the machine with any other table
of round constants. -/
def Obligations.StepKeepsTheInvariant : Prop :=
  (∀ s t : State, Inv Config.delta s → step s = .next t → Inv Config.delta t) ∧
  ∀ (delta : Vector Word 8) (s t : State), Inv delta s → stepWith delta s = .next t → Inv delta t

/-- The reset state has the invariant, whatever the table of round constants. -/
def Obligations.ResetHasTheInvariant : Prop := ∀ delta : Vector Word 8, Inv delta State.reset

/-- Of R122, at command level: `STATUS` after a command and the error code it answers depend on the command word and on
`STATUS` alone, never on a key, a block, a word of the state or of a schedule, or the data operand. -/
def Obligations.OutcomeIndependentOfData : Prop :=
  ∀ (i : Instr) (s s' : State), s.status = s'.status → ∃ t t' : State,
    exec i s = .next t ∧ exec i s' = .next t' ∧ t.status = t'.status ∧ t.rsp.map (·.err) = t'.rsp.map (·.err)

/-! ## The port, clock by clock (`30_encoding.md` R41, `70_reset_and_hazards.md` R120 to R124) -/

/-- R41: after an idle block accepts a command, `cmd_ready` is 0 and no response is given until the cycle `LAT` cycles later,
which gives exactly the response of the command, and in the cycle after that the block is ready again. (The effect is placed
at acceptance: the model's choice, log entry 6.) -/
def Obligations.ResponseFollowsByLatency : Prop :=
  ∀ (delta : Vector Word 8) (p : PortState) (C : BitVec 16) (d : Word) (ins : List PortIn) (inp : PortIn), p.inFlight = none →
    (∀ x ∈ ins, x.rst = false) → inp.rst = false →
    ∃ (t : State) (r : Response) (L : Nat), runCommand delta C d p.core = .next t ∧ t.rsp = some r ∧
      L = Config.latency C p.core.status.svalid p.core.status.sdir p.core.status.snr (r.err != 0) ∧ 1 ≤ L ∧
      (ins.length ≤ L → ∃ q, portRun delta p (⟨false, true, C, d⟩ :: ins) = .next q ∧
        portOut q inp =
          if ins.length + 1 < L then ⟨false, none⟩
          else if ins.length + 1 = L then ⟨false, some r⟩
          else ⟨true, none⟩)

/-- The clock-level block does what the command-level machine does: over any run of cycles it ends in the state that `step`
reaches on the events the port accepted, in acceptance order (R41, R35; log entry 6). -/
def Obligations.PortRefinesTheCommandLevel : Prop :=
  ∀ (delta : Vector Word 8) (p : PortState) (ins : List PortIn), ∃ (q : PortState) (t : State),
    portRun delta p ins = .next q ∧
    Host.Core.run (coreWith delta) (portEvents delta p ins).length { p.core with inbox := portEvents delta p ins } = .next t ∧
    { t with inbox := p.core.inbox } = q.core

/-- R122: two runs of the block that agree in `STATUS`, in how far the command in flight is and in every input but the data
operand show the same handshake and the same error codes in every cycle, whatever keys, blocks, words and schedules they
hold: no timing depends on data. -/
def Obligations.TimingIndependentOfData : Prop :=
  ∀ (delta : Vector Word 8) (p p' : PortState) (ins ins' : List PortIn), p.control = p'.control →
    ins.map PortIn.control = ins'.map PortIn.control →
    (portTrace delta p ins).map PortOut.control = (portTrace delta p' ins').map PortOut.control

/-! ## The assembler (`30_encoding.md` R49, R50) -/

/-- R50: each pseudo-command assembles to the same commands as its expansion. -/
def Obligations.PseudoCommandsExpand : Prop :=
  (∀ dir : Nat,
    assemble ⟨.ks128, [dir], none⟩ = assemble ⟨.ksched, [16, dir], none⟩ ∧
    assemble ⟨.ks192, [dir], none⟩ = assemble ⟨.ksched, [24, dir], none⟩ ∧
    assemble ⟨.ks256, [dir], none⟩ = assemble ⟨.ksched, [32, dir], none⟩) ∧
  assemble ⟨.b2wAll, [], none⟩ = some [.command 0x8000 0, .command 0x8001 0, .command 0x8002 0, .command 0x8003 0] ∧
  assemble ⟨.w2bAll, [], none⟩ = some [.command 0x8800 0, .command 0x8801 0, .command 0x8802 0, .command 0x8803 0]

/-- R49 with the widths of R43, mnemonic by mnemonic: what each line assembles to, and that it is refused where it has another
number of operands, an operand that does not fit its field, or data where its form has none or none where its form has some.
(That the data of a byte write may be any 32-bit value: log entry 10.) In general, a line that is accepted gives words that decode
to its commands, with its data operand, zero where it has none. -/
def Obligations.AssembledLinesDecode : Prop :=
  (∀ (ops : List Nat) (data : Option Nat),
    assemble ⟨.nop, ops, data⟩ = lineOfNone [0x0000] ops data ∧
    assemble ⟨.rdst, ops, data⟩ = lineOfNone [0x0800] ops data ∧
    assemble ⟨.clre, ops, data⟩ = lineOfNone [0x1000] ops data ∧
    assemble ⟨.wrkb, ops, data⟩ = lineOfWrite 0x2000 32 ops data ∧
    assemble ⟨.rdkb, ops, data⟩ = lineOfOne 0x2800 1 32 ops data ∧
    assemble ⟨.wrbb, ops, data⟩ = lineOfWrite 0x3000 16 ops data ∧
    assemble ⟨.rdbb, ops, data⟩ = lineOfOne 0x3800 1 16 ops data ∧
    assemble ⟨.wrx, ops, data⟩ = lineOfWrite 0x4000 4 ops data ∧
    assemble ⟨.rdx, ops, data⟩ = lineOfOne 0x4800 1 4 ops data ∧
    assemble ⟨.wrrk, ops, data⟩ = lineOfWrite 0x5000 8 ops data ∧
    assemble ⟨.rdrk, ops, data⟩ = lineOfOne 0x5800 1 8 ops data ∧
    assemble ⟨.ldrk, ops, data⟩ = lineOfOne 0x6000 1 32 ops data ∧
    assemble ⟨.rdsk, ops, data⟩ = lineOfTwo 0x6800 8 32 1 8 ops data ∧
    assemble ⟨.b2w, ops, data⟩ = lineOfOne 0x8000 1 4 ops data ∧
    assemble ⟨.w2b, ops, data⟩ = lineOfOne 0x8800 1 4 ops data ∧
    assemble ⟨.rol, ops, data⟩ = lineOfTwo 0x9000 256 4 1 256 ops data ∧
    assemble ⟨.ror, ops, data⟩ = lineOfTwo 0x9800 256 4 1 256 ops data ∧
    assemble ⟨.ksched, ops, data⟩ = lineOfTwo 0xA000 1 64 64 4 ops data ∧
    assemble ⟨.encr, ops, data⟩ = lineOfNone [0xB000] ops data ∧
    assemble ⟨.decr, ops, data⟩ = lineOfNone [0xB800] ops data ∧
    assemble ⟨.encb, ops, data⟩ = lineOfNone [0xC000] ops data ∧
    assemble ⟨.decb, ops, data⟩ = lineOfNone [0xC800] ops data ∧
    assemble ⟨.ks128, ops, data⟩ = lineOfOne 0xA010 64 4 ops data ∧
    assemble ⟨.ks192, ops, data⟩ = lineOfOne 0xA018 64 4 ops data ∧
    assemble ⟨.ks256, ops, data⟩ = lineOfOne 0xA020 64 4 ops data ∧
    assemble ⟨.b2wAll, ops, data⟩ = lineOfNone [0x8000, 0x8001, 0x8002, 0x8003] ops data ∧
    assemble ⟨.w2bAll, ops, data⟩ = lineOfNone [0x8800, 0x8801, 0x8802, 0x8803] ops data) ∧
  ∀ l : AsmLine, (assemble l = none ↔ l.wellFormed = false) ∧
    ∀ evs, assemble l = some evs → evs ≠ [] ∧ ∀ e ∈ evs, ∃ C i,
      e = .command C (BitVec.ofNat 32 (l.data.getD 0)) ∧ decode C = .ok i ∧ i ∈ expandLine l
end

