-- ==== Sys2Proof/Laws/State.lean ====
section
/-! SUPPORT. The small lemmas of the state: one per field per update, so that no proof unfolds a record update. -/

namespace Sys2Proof.Machine

@[simp] theorem State.withX_x (v : Vector Word 4) (s : State) : (s.withX v).x = v := rfl
@[simp] theorem State.withX_rkr (v : Vector Word 4) (s : State) : (s.withX v).rkr = s.rkr := rfl
@[simp] theorem State.withX_sched (v : Vector Word 4) (s : State) : (s.withX v).sched = s.sched := rfl
@[simp] theorem State.withX_keyb (v : Vector Word 4) (s : State) : (s.withX v).keyb = s.keyb := rfl
@[simp] theorem State.withX_blk (v : Vector Word 4) (s : State) : (s.withX v).blk = s.blk := rfl
@[simp] theorem State.withX_status (v : Vector Word 4) (s : State) : (s.withX v).status = s.status := rfl
@[simp] theorem State.withX_wdata (v : Vector Word 4) (s : State) : (s.withX v).wdata = s.wdata := rfl
@[simp] theorem State.withX_rsp (v : Vector Word 4) (s : State) : (s.withX v).rsp = s.rsp := rfl
@[simp] theorem State.withX_inbox (v : Vector Word 4) (s : State) : (s.withX v).inbox = s.inbox := rfl

@[simp] theorem State.withRkr_x (v : Vector Word 6) (s : State) : (s.withRkr v).x = s.x := rfl
@[simp] theorem State.withRkr_rkr (v : Vector Word 6) (s : State) : (s.withRkr v).rkr = v := rfl
@[simp] theorem State.withRkr_sched (v : Vector Word 6) (s : State) : (s.withRkr v).sched = s.sched := rfl
@[simp] theorem State.withRkr_keyb (v : Vector Word 6) (s : State) : (s.withRkr v).keyb = s.keyb := rfl
@[simp] theorem State.withRkr_blk (v : Vector Word 6) (s : State) : (s.withRkr v).blk = s.blk := rfl
@[simp] theorem State.withRkr_status (v : Vector Word 6) (s : State) : (s.withRkr v).status = s.status := rfl
@[simp] theorem State.withRkr_wdata (v : Vector Word 6) (s : State) : (s.withRkr v).wdata = s.wdata := rfl
@[simp] theorem State.withRkr_rsp (v : Vector Word 6) (s : State) : (s.withRkr v).rsp = s.rsp := rfl
@[simp] theorem State.withRkr_inbox (v : Vector Word 6) (s : State) : (s.withRkr v).inbox = s.inbox := rfl

@[simp] theorem State.withSched_x (v : Vector RoundKey 32) (s : State) : (s.withSched v).x = s.x := rfl
@[simp] theorem State.withSched_rkr (v : Vector RoundKey 32) (s : State) : (s.withSched v).rkr = s.rkr := rfl
@[simp] theorem State.withSched_sched (v : Vector RoundKey 32) (s : State) : (s.withSched v).sched = v := rfl
@[simp] theorem State.withSched_keyb (v : Vector RoundKey 32) (s : State) : (s.withSched v).keyb = s.keyb := rfl
@[simp] theorem State.withSched_blk (v : Vector RoundKey 32) (s : State) : (s.withSched v).blk = s.blk := rfl
@[simp] theorem State.withSched_status (v : Vector RoundKey 32) (s : State) : (s.withSched v).status = s.status := rfl
@[simp] theorem State.withSched_wdata (v : Vector RoundKey 32) (s : State) : (s.withSched v).wdata = s.wdata := rfl
@[simp] theorem State.withSched_rsp (v : Vector RoundKey 32) (s : State) : (s.withSched v).rsp = s.rsp := rfl
@[simp] theorem State.withSched_inbox (v : Vector RoundKey 32) (s : State) : (s.withSched v).inbox = s.inbox := rfl

@[simp] theorem State.withKeyb_x (v : Vector Byte 32) (s : State) : (s.withKeyb v).x = s.x := rfl
@[simp] theorem State.withKeyb_rkr (v : Vector Byte 32) (s : State) : (s.withKeyb v).rkr = s.rkr := rfl
@[simp] theorem State.withKeyb_sched (v : Vector Byte 32) (s : State) : (s.withKeyb v).sched = s.sched := rfl
@[simp] theorem State.withKeyb_keyb (v : Vector Byte 32) (s : State) : (s.withKeyb v).keyb = v := rfl
@[simp] theorem State.withKeyb_blk (v : Vector Byte 32) (s : State) : (s.withKeyb v).blk = s.blk := rfl
@[simp] theorem State.withKeyb_status (v : Vector Byte 32) (s : State) : (s.withKeyb v).status = s.status := rfl
@[simp] theorem State.withKeyb_wdata (v : Vector Byte 32) (s : State) : (s.withKeyb v).wdata = s.wdata := rfl
@[simp] theorem State.withKeyb_rsp (v : Vector Byte 32) (s : State) : (s.withKeyb v).rsp = s.rsp := rfl
@[simp] theorem State.withKeyb_inbox (v : Vector Byte 32) (s : State) : (s.withKeyb v).inbox = s.inbox := rfl

@[simp] theorem State.withBlk_x (v : Vector Byte 16) (s : State) : (s.withBlk v).x = s.x := rfl
@[simp] theorem State.withBlk_rkr (v : Vector Byte 16) (s : State) : (s.withBlk v).rkr = s.rkr := rfl
@[simp] theorem State.withBlk_sched (v : Vector Byte 16) (s : State) : (s.withBlk v).sched = s.sched := rfl
@[simp] theorem State.withBlk_keyb (v : Vector Byte 16) (s : State) : (s.withBlk v).keyb = s.keyb := rfl
@[simp] theorem State.withBlk_blk (v : Vector Byte 16) (s : State) : (s.withBlk v).blk = v := rfl
@[simp] theorem State.withBlk_status (v : Vector Byte 16) (s : State) : (s.withBlk v).status = s.status := rfl
@[simp] theorem State.withBlk_wdata (v : Vector Byte 16) (s : State) : (s.withBlk v).wdata = s.wdata := rfl
@[simp] theorem State.withBlk_rsp (v : Vector Byte 16) (s : State) : (s.withBlk v).rsp = s.rsp := rfl
@[simp] theorem State.withBlk_inbox (v : Vector Byte 16) (s : State) : (s.withBlk v).inbox = s.inbox := rfl

@[simp] theorem State.withStatus_x (v : Status) (s : State) : (s.withStatus v).x = s.x := rfl
@[simp] theorem State.withStatus_rkr (v : Status) (s : State) : (s.withStatus v).rkr = s.rkr := rfl
@[simp] theorem State.withStatus_sched (v : Status) (s : State) : (s.withStatus v).sched = s.sched := rfl
@[simp] theorem State.withStatus_keyb (v : Status) (s : State) : (s.withStatus v).keyb = s.keyb := rfl
@[simp] theorem State.withStatus_blk (v : Status) (s : State) : (s.withStatus v).blk = s.blk := rfl
@[simp] theorem State.withStatus_status (v : Status) (s : State) : (s.withStatus v).status = v := rfl
@[simp] theorem State.withStatus_wdata (v : Status) (s : State) : (s.withStatus v).wdata = s.wdata := rfl
@[simp] theorem State.withStatus_rsp (v : Status) (s : State) : (s.withStatus v).rsp = s.rsp := rfl
@[simp] theorem State.withStatus_inbox (v : Status) (s : State) : (s.withStatus v).inbox = s.inbox := rfl

@[simp] theorem State.accept_x (d : Word) (s : State) : (s.accept d).x = s.x := rfl
@[simp] theorem State.accept_rkr (d : Word) (s : State) : (s.accept d).rkr = s.rkr := rfl
@[simp] theorem State.accept_sched (d : Word) (s : State) : (s.accept d).sched = s.sched := rfl
@[simp] theorem State.accept_keyb (d : Word) (s : State) : (s.accept d).keyb = s.keyb := rfl
@[simp] theorem State.accept_blk (d : Word) (s : State) : (s.accept d).blk = s.blk := rfl
@[simp] theorem State.accept_status (d : Word) (s : State) : (s.accept d).status = s.status := rfl
@[simp] theorem State.accept_wdata (d : Word) (s : State) : (s.accept d).wdata = d := rfl
@[simp] theorem State.accept_rsp (d : Word) (s : State) : (s.accept d).rsp = none := rfl
@[simp] theorem State.accept_inbox (d : Word) (s : State) : (s.accept d).inbox = s.inbox := rfl

@[simp] theorem State.respond_x (e : BitVec 4) (d : Word) (s : State) : (s.respond e d).x = s.x := rfl
@[simp] theorem State.respond_rkr (e : BitVec 4) (d : Word) (s : State) : (s.respond e d).rkr = s.rkr := rfl
@[simp] theorem State.respond_sched (e : BitVec 4) (d : Word) (s : State) : (s.respond e d).sched = s.sched := rfl
@[simp] theorem State.respond_keyb (e : BitVec 4) (d : Word) (s : State) : (s.respond e d).keyb = s.keyb := rfl
@[simp] theorem State.respond_blk (e : BitVec 4) (d : Word) (s : State) : (s.respond e d).blk = s.blk := rfl
@[simp] theorem State.respond_status (e : BitVec 4) (d : Word) (s : State) : (s.respond e d).status = s.status := rfl
@[simp] theorem State.respond_wdata (e : BitVec 4) (d : Word) (s : State) : (s.respond e d).wdata = s.wdata := rfl
@[simp] theorem State.respond_rsp (e : BitVec 4) (d : Word) (s : State) : (s.respond e d).rsp = some ⟨e, d⟩ := rfl
@[simp] theorem State.respond_inbox (e : BitVec 4) (d : Word) (s : State) : (s.respond e d).inbox = s.inbox := rfl

@[simp] theorem acknowledge_x (s : State) : (acknowledge s).x = s.x := rfl
@[simp] theorem acknowledge_rkr (s : State) : (acknowledge s).rkr = s.rkr := rfl
@[simp] theorem acknowledge_sched (s : State) : (acknowledge s).sched = s.sched := rfl
@[simp] theorem acknowledge_keyb (s : State) : (acknowledge s).keyb = s.keyb := rfl
@[simp] theorem acknowledge_blk (s : State) : (acknowledge s).blk = s.blk := rfl
@[simp] theorem acknowledge_status (s : State) : (acknowledge s).status = s.status.clearError := rfl
@[simp] theorem acknowledge_wdata (s : State) : (acknowledge s).wdata = s.wdata := rfl
@[simp] theorem acknowledge_rsp (s : State) : (acknowledge s).rsp = s.rsp := rfl
@[simp] theorem acknowledge_inbox (s : State) : (acknowledge s).inbox = s.inbox := rfl

@[simp] theorem storeBlock_x (x : Vector Word 4) (s : State) : (storeBlock x s).x = x := rfl
@[simp] theorem storeBlock_rkr (x : Vector Word 4) (s : State) : (storeBlock x s).rkr = s.rkr := rfl
@[simp] theorem storeBlock_sched (x : Vector Word 4) (s : State) : (storeBlock x s).sched = s.sched := rfl
@[simp] theorem storeBlock_keyb (x : Vector Word 4) (s : State) : (storeBlock x s).keyb = s.keyb := rfl
@[simp] theorem storeBlock_blk (x : Vector Word 4) (s : State) : (storeBlock x s).blk = wordsToBlock x := rfl
@[simp] theorem storeBlock_status (x : Vector Word 4) (s : State) : (storeBlock x s).status = s.status := rfl
@[simp] theorem storeBlock_wdata (x : Vector Word 4) (s : State) : (storeBlock x s).wdata = s.wdata := rfl
@[simp] theorem storeBlock_rsp (x : Vector Word 4) (s : State) : (storeBlock x s).rsp = s.rsp := rfl
@[simp] theorem storeBlock_inbox (x : Vector Word 4) (s : State) : (storeBlock x s).inbox = s.inbox := rfl

@[simp] theorem installSchedule_x (S : KeySchedule) (dir : BitVec 2) (s : State) :
    (installSchedule S dir s).x = s.x := by
  simp only [installSchedule, State.withStatus_x, State.withSched_x]
@[simp] theorem installSchedule_rkr (S : KeySchedule) (dir : BitVec 2) (s : State) :
    (installSchedule S dir s).rkr = s.rkr := by
  simp only [installSchedule, State.withStatus_rkr, State.withSched_rkr]
@[simp] theorem installSchedule_sched (S : KeySchedule) (dir : BitVec 2) (s : State) :
    (installSchedule S dir s).sched = storeSchedule S s.sched := by
  simp only [installSchedule, State.withStatus_sched, State.withSched_sched]
@[simp] theorem installSchedule_keyb (S : KeySchedule) (dir : BitVec 2) (s : State) :
    (installSchedule S dir s).keyb = s.keyb := by
  simp only [installSchedule, State.withStatus_keyb, State.withSched_keyb]
@[simp] theorem installSchedule_blk (S : KeySchedule) (dir : BitVec 2) (s : State) :
    (installSchedule S dir s).blk = s.blk := by
  simp only [installSchedule, State.withStatus_blk, State.withSched_blk]
@[simp] theorem installSchedule_status (S : KeySchedule) (dir : BitVec 2) (s : State) :
    (installSchedule S dir s).status = s.status.scheduleBuilt dir S.length := by
  simp only [installSchedule, State.withStatus_status]
@[simp] theorem installSchedule_wdata (S : KeySchedule) (dir : BitVec 2) (s : State) :
    (installSchedule S dir s).wdata = s.wdata := by
  simp only [installSchedule, State.withStatus_wdata, State.withSched_wdata]
@[simp] theorem installSchedule_rsp (S : KeySchedule) (dir : BitVec 2) (s : State) :
    (installSchedule S dir s).rsp = s.rsp := by
  simp only [installSchedule, State.withStatus_rsp, State.withSched_rsp]
@[simp] theorem installSchedule_inbox (S : KeySchedule) (dir : BitVec 2) (s : State) :
    (installSchedule S dir s).inbox = s.inbox := by
  simp only [installSchedule, State.withStatus_inbox, State.withSched_inbox]

@[simp] theorem Status.clearError_svalid (st : Status) : st.clearError.svalid = st.svalid := rfl
@[simp] theorem Status.clearError_sdir (st : Status) : st.clearError.sdir = st.sdir := rfl
@[simp] theorem Status.clearError_snr (st : Status) : st.clearError.snr = st.snr := rfl
@[simp] theorem Status.clearError_err (st : Status) : st.clearError.err = 0 := rfl
@[simp] theorem Status.scheduleBuilt_svalid (dir : BitVec 2) (nr : Nat) (st : Status) :
    (st.scheduleBuilt dir nr).svalid = true := rfl
@[simp] theorem Status.scheduleBuilt_sdir (dir : BitVec 2) (nr : Nat) (st : Status) :
    (st.scheduleBuilt dir nr).sdir = dir.getLsbD 0 := rfl
@[simp] theorem Status.scheduleBuilt_snr (dir : BitVec 2) (nr : Nat) (st : Status) :
    (st.scheduleBuilt dir nr).snr = BitVec.ofNat 6 nr := rfl
@[simp] theorem Status.scheduleBuilt_err (dir : BitVec 2) (nr : Nat) (st : Status) :
    (st.scheduleBuilt dir nr).err = st.err := rfl
@[simp] theorem Status.recordError_svalid (code : ErrorCode) (st : Status) :
    (st.recordError code).svalid = st.svalid := by unfold Status.recordError; split <;> rfl
@[simp] theorem Status.recordError_sdir (code : ErrorCode) (st : Status) :
    (st.recordError code).sdir = st.sdir := by unfold Status.recordError; split <;> rfl
@[simp] theorem Status.recordError_snr (code : ErrorCode) (st : Status) :
    (st.recordError code).snr = st.snr := by unfold Status.recordError; split <;> rfl
@[simp] theorem Status.recordError_err (code : ErrorCode) (st : Status) :
    (st.recordError code).err = if st.err = 0 then code.code else st.err := by
  unfold Status.recordError; split <;> simp [*]

end Sys2Proof.Machine
end

