-- ==== Sys2Proof/Laws/Ops.lean ====
section
/-! SUPPORT. One lemma for each shared operation, saying once everything it can do: the byte-buffer accesses, the operand forms,
the three ways a command ends, the schedule store. The provers cite these instead of unfolding the operations. -/

namespace Sys2Proof.Machine

/-- Entry `i` of a tabulated vector. -/
@[simp] theorem getElem_tabulate {α : Type} {n : Nat} (f : Fin n → α) (i : Nat) (hi : i < n) :
    (tabulate f)[i] = f ⟨i, hi⟩ := by
  simp [tabulate]

/-- Byte `i` of `MemRead(B, a, n)` is `B[a + i]`. -/
@[simp] theorem getElem_memRead {size : Nat} (B : Vector Byte size) (a n : Nat) (h : a + n ≤ size) (i : Nat) (hi : i < n) :
    (memRead B a n h)[i] = B[a + i] := by
  simp [memRead]

/-- Byte `i` after `MemWrite(B, a, n, bytes)`. -/
theorem getElem_memWrite {size n : Nat} (B : Vector Byte size) (a : Nat) (bytes : Vector Byte n) (i : Nat) (hi : i < size) :
    (memWrite B a bytes)[i] = if h : a ≤ i ∧ i < a + n then bytes[i - a] else B[i] := by
  simp [memWrite]

/-- A one-byte `MemWrite` changes that byte and no other. -/
theorem getElem_memWrite_one {size : Nat} (B : Vector Byte size) (a : Nat) (v : Byte) (i : Nat) (hi : i < size) :
    (memWrite B a #v[v])[i] = if i = a then v else B[i] := by
  rw [getElem_memWrite]
  by_cases h : i = a
  · subst h; simp
  · rw [dif_neg (by omega), if_neg h]

/-- Reading back what a `MemWrite` inside the buffer has written. -/
theorem memRead_memWrite {size n : Nat} (B : Vector Byte size) (a : Nat) (bytes : Vector Byte n) (h : a + n ≤ size) :
    memRead (memWrite B a bytes) a n h = bytes := by
  apply Vector.ext; intro i hi
  rw [getElem_memRead, getElem_memWrite, dif_pos (by omega)]
  simp

/-- Writing back what a `MemRead` has read changes nothing. -/
theorem memWrite_memRead {size : Nat} (B : Vector Byte size) (a n : Nat) (h : a + n ≤ size) :
    memWrite B a (memRead B a n h) = B := by
  apply Vector.ext; intro i hi
  rw [getElem_memWrite]
  split
  · rename_i hc
    rw [getElem_memRead]; congr 1; omega
  · rfl

/-- Row `i` after a schedule has been stored: its own row below the length, the old row from there on (R19). -/
theorem getElem_storeSchedule (S : KeySchedule) (rows : Vector RoundKey 32) (i : Nat) (hi : i < 32) :
    (storeSchedule S rows)[i] = if h : i < S.length then S[i] else rows[i] := by
  simp [storeSchedule]

/-- `k` names a word of a round key exactly when it is 0..5 (R44). -/
theorem roundKeyIndex_eq (k : BitVec 3) :
    (∃ h : k.toNat < 6, roundKeyIndex k = some ⟨k.toNat, h⟩) ∨ (6 ≤ k.toNat ∧ roundKeyIndex k = none) := by
  unfold roundKeyIndex
  by_cases h : k.toNat < 6
  · exact .inl ⟨h, dif_pos h⟩
  · exact .inr ⟨by omega, dif_neg h⟩

/-- `i` names a readable row exactly when it is below `SNR` (R19). -/
theorem scheduleRow_eq (st : Status) (i : BitVec 5) :
    (i.toNat < st.snr.toNat ∧ scheduleRow st i = some ⟨i.toNat, by omega⟩) ∨
      (st.snr.toNat ≤ i.toNat ∧ scheduleRow st i = none) := by
  unfold scheduleRow
  by_cases h : i.toNat < st.snr.toNat
  · exact .inl ⟨h, if_pos h⟩
  · exact .inr ⟨by omega, if_neg h⟩

/-- `klen` names a key length exactly when it is 16, 24 or 32 (R44), and then it is that many bytes. -/
theorem keyLengthOf_eq_some {klen : BitVec 6} {L : KeyLength} : keyLengthOf klen = some L ↔ klen.toNat = L.bytes := by
  unfold keyLengthOf
  constructor
  · split <;> intro h <;> simp_all <;> subst h <;> rfl
  · intro h
    rw [h]; cases L <;> rfl

theorem keyLengthOf_eq_none {klen : BitVec 6} :
    keyLengthOf klen = none ↔ klen.toNat ≠ 16 ∧ klen.toNat ≠ 24 ∧ klen.toNat ≠ 32 := by
  unfold keyLengthOf
  split <;> simp_all

/-- `dir` names a direction exactly when it is 0 or 1 (R44). -/
theorem directionOf_eq (dir : BitVec 2) :
    (dir = 0 ∧ directionOf dir = some .encrypt) ∨ (dir = 1 ∧ directionOf dir = some .decrypt) ∨
      (2 ≤ dir.toNat ∧ directionOf dir = none) := by
  revert dir; decide

/-- The end of a successful command without data. -/
theorem done_eq (s : State) : done s = .next { s with rsp := some ⟨0, 0⟩ } := rfl

/-- The end of a successful read. -/
theorem reply_eq (d : Word) (s : State) : reply d s = .next { s with rsp := some ⟨0, d⟩ } := rfl

/-- Error entry is what R107 says of it. -/
theorem raiseErr_eq (code : ErrorCode) (s : State) : raiseErr code s = .next (failed code.code s) := by
  simp only [raiseErr, failed, State.withStatus, State.respond, Status.recordError]
  split <;> rfl

@[simp] theorem ErrorCode.code_keyLen : ErrorCode.keyLen.code = 1 := rfl
@[simp] theorem ErrorCode.code_dir : ErrorCode.dir.code = 2 := rfl
@[simp] theorem ErrorCode.code_illegal : ErrorCode.illegal.code = 3 := rfl
@[simp] theorem ErrorCode.code_noSched : ErrorCode.noSched.code = 4 := rfl
@[simp] theorem ErrorCode.code_mismatch : ErrorCode.mismatch.code = 5 := rfl
@[simp] theorem ErrorCode.code_index : ErrorCode.index.code = 6 := rfl

/-- An error code is none of the reserved ones, and not 0. -/
theorem ErrorCode.code_range (code : ErrorCode) : code.code ≠ 0 ∧ code.code.toNat ≤ 6 := by
  cases code <;> decide

/-- The expansion loop makes one round key for each round. -/
@[simp] theorem length_expandFrom {n : Nat} (round : Nat → Vector Word n → Vector Word n)
    (place : Nat → Vector Word n → RoundKey) (count i : Nat) (T : Vector Word n) :
    (expandFrom round place count i T).length = count := by
  induction count generalizing i T with
  | zero => rfl
  | succ c ih => simp [expandFrom, ih]

@[simp] theorem length_inDirection (EK : KeySchedule) (d : Direction) : (inDirection EK d).length = EK.length := by
  cases d <;> simp [inDirection]

/-- `buildSchedule` of a key of a legal length: one expansion of `Nr` round keys, whatever the direction, then the
direction's order (R71, R73). -/
theorem buildSchedule_of_length (delta : Vector Word 8) (L : KeyLength) (key : List Byte) (h : key.length = L.bytes) :
    ∃ EK : KeySchedule, EK.length = L.rounds ∧ ∀ direction, buildSchedule delta key direction = ordered EK direction := by
  cases L <;> simp only [KeyLength.bytes] at h
  · exact ⟨expand128 delta ⟨key.toArray, by simpa using h⟩, by simp [expand128, KeyLength.rounds],
      fun d => by simp [buildSchedule, h]⟩
  · exact ⟨expand192 delta ⟨key.toArray, by simpa using h⟩, by simp [expand192, KeyLength.rounds],
      fun d => by simp [buildSchedule, h]⟩
  · exact ⟨expand256 delta ⟨key.toArray, by simpa using h⟩, by simp [expand256, KeyLength.rounds],
      fun d => by simp [buildSchedule, h]⟩

/-- `buildSchedule` of any other key fails on its length (R71, R106). -/
theorem buildSchedule_bad_length (delta : Vector Word 8) (key : List Byte) (direction : BitVec 2)
    (h : key.length ≠ 16 ∧ key.length ≠ 24 ∧ key.length ≠ 32) : buildSchedule delta key direction = .error .keyLen := by
  simp [buildSchedule, h]

/-- The key `KSCHED` reads has `klen` bytes, and byte `a` of it is `KEYB[a]` (R75). -/
@[simp] theorem length_keyBytes (L : KeyLength) (s : State) : (keyBytes L s).length = L.bytes := by
  simp [keyBytes]

theorem getElem_keyBytes (L : KeyLength) (s : State) (a : Nat) (h : a < (keyBytes L s).length) :
    (keyBytes L s)[a] = s.keyb[a]'(by have := L.bytes_le; simp at h; omega) := by
  simp [keyBytes]

/-- The schedule a command can read is the first `SNR` rows (R19). -/
theorem getElem_schedule (s : State) (i : Nat) (h : i < s.schedule.length) :
    s.schedule[i] = s.sched[i]'(by simp [State.schedule] at h; omega) := by
  simp [State.schedule]

theorem length_schedule (s : State) : s.schedule.length = min s.status.snr.toNat 32 := by
  simp [State.schedule]

end Sys2Proof.Machine
end

