-- ==== Sys2Proof/Laws/Codec.lean ====
section
/-! SUPPORT. The pure functions of the Word Codec in the library's terms, and a block's bytes and words. -/

namespace Sys2Proof.Machine

/-- `bytesToWord` is the bytes one after the other, `b3` on top (R51). -/
theorem bytesToWord_eq_append (b0 b1 b2 b3 : Byte) : bytesToWord b0 b1 b2 b3 = b3 ++ b2 ++ b1 ++ b0 := by
  apply BitVec.eq_of_toNat_eq
  have h0 := b0.isLt; have h1 := b1.isLt; have h2 := b2.isLt; have h3 := b3.isLt
  have e1 : b3.toNat * 256 ||| b2.toNat = b3.toNat * 256 + b2.toNat := by
    simpa [Nat.shiftLeft_eq] using (Nat.shiftLeft_add_eq_or_of_lt h2 b3.toNat).symm
  have e2 : (b3.toNat * 256 + b2.toNat) * 256 ||| b1.toNat = (b3.toNat * 256 + b2.toNat) * 256 + b1.toNat := by
    simpa [Nat.shiftLeft_eq] using (Nat.shiftLeft_add_eq_or_of_lt h1 (b3.toNat * 256 + b2.toNat)).symm
  have e3 : ((b3.toNat * 256 + b2.toNat) * 256 + b1.toNat) * 256 ||| b0.toNat =
      ((b3.toNat * 256 + b2.toNat) * 256 + b1.toNat) * 256 + b0.toNat := by
    simpa [Nat.shiftLeft_eq] using
      (Nat.shiftLeft_add_eq_or_of_lt h0 ((b3.toNat * 256 + b2.toNat) * 256 + b1.toNat)).symm
  simp only [bytesToWord, BitVec.toNat_add, BitVec.toNat_shiftLeft, BitVec.toNat_setWidth, BitVec.toNat_append,
    Nat.shiftLeft_eq]
  norm_num only
  rw [e1, e2, e3]
  omega

/-- `rotateLeft` is the library's rotation by the remainder (R53). -/
theorem rotateLeft_eq (w : Word) (r : Nat) : rotateLeft w r = w.rotateLeft (r % 32) := by
  by_cases h : r % 32 = 0
  · have e : w.rotateLeft 0 = w := by apply BitVec.eq_of_getLsbD_eq; intro i hi; simp [hi]
    simp [rotateLeft, h, e]
  · simp [rotateLeft, h, BitVec.rotateLeft_def]

/-- `rotateRight` is the library's rotation by the remainder (R54). -/
theorem rotateRight_eq (w : Word) (r : Nat) : rotateRight w r = w.rotateRight (r % 32) := by
  by_cases h : r % 32 = 0
  · have e : w.rotateRight 0 = w := by apply BitVec.eq_of_getLsbD_eq; intro i hi; simp [hi]
    simp [rotateRight, h, e]
  · simp [rotateRight, h, BitVec.rotateRight_def]

/-- Word `j` of a block is the group at byte offsets `4j..4j+3` (R29, R82). -/
theorem getElem_blockToWords (b : Vector Byte 16) (j : Nat) (h : j < 4) :
    (blockToWords b)[j] = bytesToWord b[4 * j] b[4 * j + 1] b[4 * j + 2] b[4 * j + 3] := by
  simp [blockToWords, groupToWord]

/-- Byte `n` of a block is byte `n mod 4` of word `n / 4` (R82). -/
theorem getElem_wordsToBlock (x : Vector Word 4) (n : Nat) (h : n < 16) :
    (wordsToBlock x)[n] = (wordToBytes (x[n / 4]'(by omega)))[n % 4]'(by omega) := by
  simp [wordsToBlock]

/-- Byte `n` of a word is its bits `8n+7..8n` (R52). -/
theorem getElem_wordToBytes (w : Word) (n : Nat) (h : n < 4) : (wordToBytes w)[n] = w.extractLsb' (8 * n) 8 := by
  have : n = 0 ∨ n = 1 ∨ n = 2 ∨ n = 3 := by omega
  rcases this with rfl | rfl | rfl | rfl <;> rfl

end Sys2Proof.Machine
end

