-- ==== Sys2Proof/Laws/Exec.lean ====
section
/-! SUPPORT. What a command can do, said once: every command ends with a next state, which either is a failed command's or has
a response with code 0, and no command touches the model's own fields of the port but the response. -/

namespace Sys2Proof.Machine

/-- `buildSchedule` fails for one of its two reasons only (R71). -/
theorem buildSchedule_error {delta : Vector Word 8} {key : List Byte} {dir : BitVec 2} {e : ErrorCode}
    (h : buildSchedule delta key dir = .error e) : e = .keyLen ∨ e = .dir := by
  unfold buildSchedule ordered at h
  split_ifs at h
  iterate 3 (split at h <;> cases h; exact .inr rfl)
  cases h; exact .inl rfl

/-- `KSCHED`, under any table, either fails or succeeds. -/
theorem kschedWith_cases (delta : Vector Word 8) (klen : BitVec 6) (dir : BitVec 2) (s : State) :
    (∃ code : ErrorCode, kschedWith delta klen dir s = .next (failed code.code s) ∧ code ≠ .illegal) ∨
      ∃ (u : State) (d : Word), kschedWith delta klen dir s = .next (u.respond 0 d) ∧ u.inbox = s.inbox ∧ u.wdata = s.wdata := by
  simp only [kschedWith, raiseErr_eq]
  repeat' split
  · exact .inl ⟨_, rfl, by decide⟩
  · rename_i h
    rcases buildSchedule_error h with rfl | rfl <;> exact .inl ⟨_, rfl, by decide⟩
  · exact .inr ⟨_, _, rfl, rfl, rfl⟩

/-- Every command either fails, leaving `failed code s` with a code other than `ERR_ILLEGAL`, or succeeds with some data. -/
theorem exec_cases (i : Instr) (s : State) :
    (∃ code : ErrorCode, exec i s = .next (failed code.code s) ∧ code ≠ .illegal) ∨
      ∃ (u : State) (d : Word), exec i s = .next (u.respond 0 d) ∧ u.inbox = s.inbox ∧ u.wdata = s.wdata := by
  cases i
  case ksched klen dir => exact kschedWith_cases Config.delta klen dir s
  all_goals simp only [exec, execNop, execRdst, execClre, execWrkb, execRdkb, execWrbb, execRdbb, execWrx, execRdx,
    execWrrk, execRdrk, execLdrk, execRdsk, execB2w, execW2b, execRol, execRor, execEncr, execDecr, execEncb, execDecb,
    raiseErr_eq]
  all_goals repeat' split
  all_goals first
    | exact .inr ⟨_, _, rfl, rfl, rfl⟩
    | exact .inl ⟨_, rfl, by decide⟩

/-- `KSCHED` under a table. -/
@[simp] theorem execWith_ksched (delta : Vector Word 8) (klen : BitVec 6) (dir : BitVec 2) (s : State) :
    execWith delta (.ksched klen dir) s = kschedWith delta klen dir s := rfl

/-- Every other command is the same under every table. -/
theorem execWith_of_ne (delta : Vector Word 8) (i : Instr) (s : State) (h : ∀ klen dir, i ≠ .ksched klen dir) :
    execWith delta i s = exec i s := by
  cases i with
  | ksched klen dir => exact absurd rfl (h klen dir)
  | _ => rfl

/-- `exec` is the default table's. -/
@[simp] theorem execWith_default (i : Instr) (s : State) : execWith Config.delta i s = exec i s := by
  cases i <;> rfl

/-- As `exec_cases`, for every table. -/
theorem execWith_cases (delta : Vector Word 8) (i : Instr) (s : State) :
    (∃ code : ErrorCode, execWith delta i s = .next (failed code.code s) ∧ code ≠ .illegal) ∨
      ∃ (u : State) (d : Word), execWith delta i s = .next (u.respond 0 d) ∧ u.inbox = s.inbox ∧ u.wdata = s.wdata := by
  by_cases h : ∃ klen dir, i = .ksched klen dir
  · obtain ⟨klen, dir, rfl⟩ := h
    exact kschedWith_cases delta klen dir s
  · rw [execWith_of_ne delta i s fun klen dir e => h ⟨klen, dir, e⟩]
    exact exec_cases i s

end Sys2Proof.Machine
end

