-- ==== Sys2Proof/Laws/PerInstr.lean ====
section
/-! SUPPORT. A family of facts about the commands as syntax, one lemma for each constructor of `Instr`. -/

namespace Sys2Proof.Laws

-- one theorem after another: a kernel evaluation waits for the theorems before it, and would hold a thread meanwhile
set_option Elab.async false

/-- The word of a command has an assigned opcode, and zeros in the bits its format reserves (`30_encoding.md` R43, R47). -/
def EncodedCanonical.Statement (i : Instr) : Prop :=
  opcode (encode i) ∉ reservedOpcodes ∧ encode i &&& Machine.reservedBits (opcode (encode i)) = 0

theorem EncodedCanonical.nop : EncodedCanonical.Statement .nop := by
  unfold EncodedCanonical.Statement; decide +kernel

theorem EncodedCanonical.rdst : EncodedCanonical.Statement .rdst := by
  unfold EncodedCanonical.Statement; decide +kernel

theorem EncodedCanonical.clre : EncodedCanonical.Statement .clre := by
  unfold EncodedCanonical.Statement; decide +kernel

theorem EncodedCanonical.wrkb (a : BitVec 5) : EncodedCanonical.Statement (.wrkb a) := by
  unfold EncodedCanonical.Statement; revert a; decide +kernel

theorem EncodedCanonical.rdkb (a : BitVec 5) : EncodedCanonical.Statement (.rdkb a) := by
  unfold EncodedCanonical.Statement; revert a; decide +kernel

theorem EncodedCanonical.wrbb (a : BitVec 4) : EncodedCanonical.Statement (.wrbb a) := by
  unfold EncodedCanonical.Statement; revert a; decide +kernel

theorem EncodedCanonical.rdbb (a : BitVec 4) : EncodedCanonical.Statement (.rdbb a) := by
  unfold EncodedCanonical.Statement; revert a; decide +kernel

theorem EncodedCanonical.wrx (j : BitVec 2) : EncodedCanonical.Statement (.wrx j) := by
  unfold EncodedCanonical.Statement; revert j; decide +kernel

theorem EncodedCanonical.rdx (j : BitVec 2) : EncodedCanonical.Statement (.rdx j) := by
  unfold EncodedCanonical.Statement; revert j; decide +kernel

theorem EncodedCanonical.wrrk (k : BitVec 3) : EncodedCanonical.Statement (.wrrk k) := by
  unfold EncodedCanonical.Statement; revert k; decide +kernel

theorem EncodedCanonical.rdrk (k : BitVec 3) : EncodedCanonical.Statement (.rdrk k) := by
  unfold EncodedCanonical.Statement; revert k; decide +kernel

theorem EncodedCanonical.ldrk (i : BitVec 5) : EncodedCanonical.Statement (.ldrk i) := by
  unfold EncodedCanonical.Statement; revert i; decide +kernel

theorem EncodedCanonical.rdsk (i : BitVec 5) (k : BitVec 3) : EncodedCanonical.Statement (.rdsk i k) := by
  unfold EncodedCanonical.Statement; revert i k; decide +kernel

theorem EncodedCanonical.b2w (j : BitVec 2) : EncodedCanonical.Statement (.b2w j) := by
  unfold EncodedCanonical.Statement; revert j; decide +kernel

theorem EncodedCanonical.w2b (j : BitVec 2) : EncodedCanonical.Statement (.w2b j) := by
  unfold EncodedCanonical.Statement; revert j; decide +kernel

theorem EncodedCanonical.rol (j : BitVec 2) (r : BitVec 8) : EncodedCanonical.Statement (.rol j r) := by
  unfold EncodedCanonical.Statement; revert j r; decide +kernel

theorem EncodedCanonical.ror (j : BitVec 2) (r : BitVec 8) : EncodedCanonical.Statement (.ror j r) := by
  unfold EncodedCanonical.Statement; revert j r; decide +kernel

theorem EncodedCanonical.ksched (klen : BitVec 6) (dir : BitVec 2) : EncodedCanonical.Statement (.ksched klen dir) := by
  unfold EncodedCanonical.Statement; revert klen dir; decide +kernel

theorem EncodedCanonical.encr : EncodedCanonical.Statement .encr := by
  unfold EncodedCanonical.Statement; decide +kernel

theorem EncodedCanonical.decr : EncodedCanonical.Statement .decr := by
  unfold EncodedCanonical.Statement; decide +kernel

theorem EncodedCanonical.encb : EncodedCanonical.Statement .encb := by
  unfold EncodedCanonical.Statement; decide +kernel

theorem EncodedCanonical.decb : EncodedCanonical.Statement .decb := by
  unfold EncodedCanonical.Statement; decide +kernel

end Sys2Proof.Laws
end

