-- ==== Sys2Proof/Laws/Schedule.lean ====
section
/-! SUPPORT. The expansion loop and the round fold, entry by entry. -/

namespace Sys2Proof.Machine

/-- The working array after the first `count` rounds from `T`. -/
def afterRounds {n : Nat} (round : Nat → Vector Word n → Vector Word n) (T : Vector Word n) : Nat → Vector Word n
  | 0 => T
  | i + 1 => round i (afterRounds round T i)

theorem getElem_expandFrom_afterRounds {n : Nat} (round : Nat → Vector Word n → Vector Word n)
    (place : Nat → Vector Word n → RoundKey) (T : Vector Word n) (count i m : Nat)
    (h : m < (expandFrom round place count i (afterRounds round T i)).length) :
    (expandFrom round place count i (afterRounds round T i))[m] = place (i + m) (afterRounds round T (i + m + 1)) := by
  induction count generalizing i m with
  | zero => simp at h
  | succ c ih =>
    cases m with
    | zero => rfl
    | succ m =>
      have h' : m < (expandFrom round place c (i + 1) (afterRounds round T (i + 1))).length := by
        simp at h ⊢; omega
      have e := ih (i + 1) m h'
      rw [show i + (m + 1) = i + 1 + m by omega]
      exact e

/-- Round key `m` of an expansion is placed from the working array after round `m`. -/
theorem getElem_expandFrom {n : Nat} (round : Nat → Vector Word n → Vector Word n)
    (place : Nat → Vector Word n → RoundKey) (T : Vector Word n) (count m : Nat)
    (h : m < (expandFrom round place count 0 T).length) :
    (expandFrom round place count 0 T)[m] = place m (afterRounds round T (m + 1)) := by
  have e := getElem_expandFrom_afterRounds round place T count 0 m h
  rw [Nat.zero_add] at e
  exact e

/-- The state of a block after the first `i` rows of a schedule. -/
theorem foldRounds_take_succ (round : Vector Word 4 → RoundKey → Vector Word 4) (S : KeySchedule) (x : Vector Word 4)
    (i : Nat) (h : i < S.length) : foldRounds round (S.take (i + 1)) x = round (foldRounds round (S.take i) x) S[i] := by
  rw [List.take_succ_eq_append_getElem h, foldRounds, List.foldl_append]
  rfl

end Sys2Proof.Machine
end

