-- ==== Sys2Proof/Tests/Slice0.lean ====
section
/-! SUPPORT. The model's own tests. Every expected value is the spec's: the encodings of `95_test_vectors.md` section 7, the vectors
of its sections 3 to 6, the errors of its section 8, the programs of its section 9. Each test runs one command, or one after
the `KSCHED` it needs. The witnesses at the end meet the hypotheses of the statements of
`Sys2Proof/Certificates/Slice0/Obligations.lean`, name by name. -/

namespace Sys2Proof.Tests

open Sys2Proof Sys2Proof.Machine

-- one theorem after another: a kernel evaluation waits for the theorems before it, and would hold a thread meanwhile
set_option Elab.async false

/-! ## The ill-formed lines, one for each check (`30_encoding.md` R49) -/

theorem test_line_ok : AsmLine.wellFormed ⟨.wrkb, [31], some 0xFF⟩ = true := by decide

theorem test_line_too_few_operands : AsmLine.wellFormed ⟨.rdsk, [3], none⟩ = false := by decide

theorem test_line_too_many_operands : AsmLine.wellFormed ⟨.encb, [0], none⟩ = false := by decide

theorem test_line_operand_too_wide : AsmLine.wellFormed ⟨.wrbb, [16], some 0⟩ = false := by decide

theorem test_line_data_missing : AsmLine.wellFormed ⟨.wrx, [0], none⟩ = false := by decide

theorem test_line_data_extra : AsmLine.wellFormed ⟨.rdx, [0], some 1⟩ = false := by decide

theorem test_line_data_too_wide : AsmLine.wellFormed ⟨.wrx, [0], some 0x100000000⟩ = false := by decide

/-- R49: "it does not refuse `k` = 6, 7, `klen` outside 16, 24, 32 or `dir` = 2, 3". -/
theorem test_line_encodable : AsmLine.wellFormed ⟨.rdrk, [7], none⟩ = true ∧ AsmLine.wellFormed ⟨.ksched, [10, 3], none⟩ = true := by
  decide

/-! ## Decoding words written out (section 7 of the vectors, the middle column), and an illegal neighbour of each -/

theorem test_decode_system : decode 0b00000_00000000000 = .ok .nop ∧ decode 0b00001_00000000000 = .ok .rdst ∧
    decode 0b00010_00000000000 = .ok .clre := by decide

theorem test_decode_access_bytes : decode 0b00100_000000_11111 = .ok (.wrkb 31) ∧ decode 0b00101_000000_10000 = .ok (.rdkb 16) ∧
    decode 0b00110_0000000_1111 = .ok (.wrbb 15) ∧ decode 0b00111_0000000_0000 = .ok (.rdbb 0) := by decide

theorem test_decode_access_words : decode 0b01000_000000000_11 = .ok (.wrx 3) ∧ decode 0b01001_000000000_10 = .ok (.rdx 2) ∧
    decode 0b01010_00000000_101 = .ok (.wrrk 5) ∧ decode 0b01011_00000000_000 = .ok (.rdrk 0) ∧
    decode 0b01100_000000_10111 = .ok (.ldrk 23) ∧ decode 0b01101_000_10111_100 = .ok (.rdsk 23 4) := by decide

theorem test_decode_codec : decode 0b10000_000000000_01 = .ok (.b2w 1) ∧ decode 0b10001_000000000_11 = .ok (.w2b 3) ∧
    decode 0b10010_0_10_00100100 = .ok (.rol 2 36) ∧ decode 0b10011_0_00_00000001 = .ok (.ror 0 1) := by decide

theorem test_decode_cipher : decode 0b10100_000_01_010000 = .ok (.ksched 16 1) ∧ decode 0b10110_00000000000 = .ok .encr ∧
    decode 0b10111_00000000000 = .ok .decr ∧ decode 0b11000_00000000000 = .ok .encb ∧
    decode 0b11001_00000000000 = .ok .decb := by decide

/-- The encoder writes the words of section 7. -/
theorem test_encode : encode (.rdsk 23 4) = 0x68BC ∧ encode (.rol 2 36) = 0x9224 ∧ encode (.ksched 16 1) = 0xA050 := by decide

/-- Section 7: the illegal neighbours, each with a reserved bit set; and the ten reserved opcodes. -/
theorem test_decode_illegal :
    ([0x0001#16, 0x0C00, 0x1001, 0x2020, 0x2C00, 0x3010, 0x3900, 0x4004, 0x4808, 0x5008, 0x5840, 0x6020, 0x6900, 0x8005,
      0x8A03, 0x9624, 0x9C01, 0xA150, 0xB001, 0xBC00, 0xC400, 0xC801].all fun C => decide (decode C = .error .reservedBit)) = true ∧
    ([0x1800#16, 0x7000, 0x7800, 0xA800, 0xD000, 0xD800, 0xE000, 0xE800, 0xF000, 0xF800, 0xFFFF].all fun C =>
      decide (decode C = .error .reservedOpcode)) = true := by decide +kernel

/-! ## One step of the machine -/

/-- The machine with LEA-DOC's key (bytes `00 01 02 ..`, all 32 places filled) and plaintext (`10 11 12 ..`), else as after
reset. -/
def loaded : State :=
  { State.reset with keyb := tabulate fun a => BitVec.ofNat 8 a.val, blk := tabulate fun a => BitVec.ofNat 8 (0x10 + a.val) }

/-- One step on the command `C` with the data operand `d`. -/
def send (C : BitVec 16) (d : Word) (s : State) : Outcome := step { s with inbox := [.command C d] }

/-- The next state of an outcome. -/
def after : Outcome → State
  | .next t => t
  | _ => State.reset

/-- The response of a step, and the word `STATUS` reads as after it. -/
def answer (C : BitVec 16) (d : Word) (s : State) : Option Response × Word :=
  ((after (send C d s)).rsp, (after (send C d s)).status.word)

/-- Bytes and words as numbers. -/
def nums {w n : Nat} (v : Vector (BitVec w) n) : List Nat := v.toList.map (·.toNat)

/-- After `KSCHED 16, ENC` and after `KSCHED 16, DEC` with LEA-DOC's key. -/
def enc16 : State := after (send 0xA010 0 loaded)

def dec16 : State := after (send 0xA050 0 loaded)

theorem test_nop : after (send 0x0000 7 loaded) = { loaded with wdata := 7, rsp := some ⟨0, 0⟩ } := by decide +kernel

/-- Section 8: `STATUS` after `KSCHED 24, ENC` is 0x00000071; `RDST` reads it and keeps it. -/
theorem test_rdst : answer 0x0800 0 { loaded with status := ⟨true, false, 28, 5⟩ } = (some ⟨0, 0x571⟩, 0x571) := by decide +kernel

theorem test_clre : answer 0x1000 0 { loaded with status := ⟨true, false, 24, 1⟩ } = (some ⟨0, 0⟩, 0x61) := by decide +kernel

/-- R42: only `WDATA[7:0]` is written. -/
theorem test_wrkb : (nums (after (send 0x201F 0xAABBCC78 loaded)).keyb).drop 30 = [30, 0x78] := by decide +kernel

theorem test_rdkb : answer 0x2810 0 loaded = (some ⟨0, 16⟩, 0) := by decide +kernel

/-- Program P4, command 1: `WRBB 0, #0xAABBCC78`. -/
theorem test_wrbb : (nums (after (send 0x3000 0xAABBCC78 loaded)).blk).take 2 = [0x78, 0x11] := by decide +kernel

theorem test_rdbb : answer 0x380F 0 loaded = (some ⟨0, 0x1F⟩, 0) := by decide +kernel

theorem test_wrx : nums (after (send 0x4003 0x1F1E1D1C loaded)).x = [0, 0, 0, 0x1F1E1D1C] := by decide +kernel

theorem test_rdx : answer 0x4802 0 { loaded with x := #v[1, 2, 0x1B1A1918, 4] } = (some ⟨0, 0x1B1A1918⟩, 0) := by decide +kernel

theorem test_wrrk : nums (after (send 0x5005 9 loaded)).rkr = [0, 0, 0, 0, 0, 9] := by decide +kernel

/-- Section 8, and program P3, command 15: an index past the end writes nothing. -/
theorem test_wrrk_index : answer 0x5006 1 loaded = (some ⟨6, 0⟩, 0x600) ∧
    (after (send 0x5006 1 loaded)).rkr = loaded.rkr := by decide +kernel

theorem test_rdrk : answer 0x5805 0 { loaded with rkr := #v[0, 1, 2, 3, 4, 0x772EC5DC] } = (some ⟨0, 0x772EC5DC⟩, 0) := by
  decide +kernel

theorem test_rdrk_index : answer 0x5807 0 loaded = (some ⟨6, 0⟩, 0x600) := by decide +kernel

/-- Section 4.1, row 1. -/
theorem test_ldrk : nums (after (send 0x6001 0 enc16)).rkr =
    [0x2D515776, 0x45C38F2C, 0x5FDD7635, 0x45C38F2C, 0x300CC588, 0x45C38F2C] := by decide +kernel

theorem test_ldrk_errors : answer 0x6000 0 loaded = (some ⟨4, 0⟩, 0x400) ∧ answer 0x6018 0 enc16 = (some ⟨6, 0⟩, 0x661) := by
  decide +kernel

theorem test_rdsk : answer 0x68BD 0 enc16 = (some ⟨0, 0xFB33BA2B⟩, 0x61) := by decide +kernel

theorem test_rdsk_errors : answer 0x6806 0 loaded = (some ⟨4, 0⟩, 0x400) ∧ answer 0x68C0 0 enc16 = (some ⟨6, 0⟩, 0x661) ∧
    answer 0x6807 0 enc16 = (some ⟨6, 0⟩, 0x661) := by decide +kernel

/-- Section 3: `B2W 3` on `BLK[12..15] = 1c 1d 1e 1f`. -/
theorem test_b2w : nums (after (send 0x8003 0 loaded)).x = [0, 0, 0, 0x1F1E1D1C] := by decide +kernel

/-- Section 3: `W2B 3` with `X[3] = 0x505D5266`. -/
theorem test_w2b : (nums (after (send 0x8803 0 { loaded with x := #v[0, 0, 0, 0x505D5266] })).blk).drop 11 =
    [0x1B, 0x66, 0x52, 0x5D, 0x50] := by decide +kernel

theorem test_rol : nums (after (send 0x9224 0 { loaded with x := #v[1, 2, 0x12345678, 4] })).x = [1, 2, 0x23456781, 4] := by
  decide +kernel

theorem test_rol_by_zero : nums (after (send 0x9100 0 { loaded with x := #v[1, 0x12345678, 3, 4] })).x = [1, 0x12345678, 3, 4] := by
  decide +kernel

theorem test_ror : nums (after (send 0x9801 0 { loaded with x := #v[0x80000001, 2, 3, 4] })).x = [0xC0000000, 2, 3, 4] := by
  decide +kernel

theorem test_ror_255 : nums (after (send 0x9BFF 0 { loaded with x := #v[1, 2, 3, 0x12345678] })).x = [1, 2, 3, 0x2468ACF0] := by
  decide +kernel

/-- Sections 1.2 and 4.4: the 256-bit schedule's last row for the key `00 01 .. 1f`, and `STATUS`. -/
theorem test_ksched : nums (after (send 0xA020 0 loaded)).sched[31] =
    [0x255BD869, 0xA38C0C06, 0xBEDD76FD, 0x20F91487, 0x97E01330, 0xA7EA7383] ∧
    answer 0xA020 0 loaded = (some ⟨0, 0⟩, 0x81) := by decide +kernel

/-- Section 4.5: the failing builds, the key length tested before the direction. -/
theorem test_ksched_errors : answer 0xA00A 0 loaded = (some ⟨1, 0⟩, 0x100) ∧ answer 0xA090 0 loaded = (some ⟨2, 0⟩, 0x200) ∧
    answer 0xA0CA 0 loaded = (some ⟨1, 0⟩, 0x100) ∧ answer 0xA110 0 loaded = (some ⟨3, 0⟩, 0x300) := by decide +kernel

/-- Section 5.1, the last row but two. -/
theorem test_encr : nums (after (send 0xB000 0 { loaded with
    x := #v[0x01234567, 0x89ABCDEF, 0xFEDCBA98, 0x76543210]
    rkr := #v[0x11111111, 0x22222222, 0x33333333, 0x44444444, 0x55555555, 0x66666666] })).x =
    [0x78888777, 0xC3A98FED, 0x77778888, 0x01234567] := by decide +kernel

/-- Section 5.2, the last row but one. -/
theorem test_decr : nums (after (send 0xB800 0 { loaded with
    x := #v[0x01234567, 0x89ABCDEF, 0xFEDCBA98, 0x76543210]
    rkr := #v[0x11111111, 0x22222222, 0x33333333, 0x44444444, 0x55555555, 0x66666666] })).x =
    [0x76543210, 0x6E194C83, 0x9C0B7A05, 0x4BE1C311] := by decide +kernel

/-- Section 1.6 and the end state of program P1. -/
theorem test_encb : nums (after (send 0xC000 0 enc16)).blk =
    [0x44, 0xab, 0x24, 0xc4, 0x8c, 0x1e, 0xb0, 0xf6, 0xe2, 0x8b, 0x2d, 0xdd, 0x66, 0x52, 0x5d, 0x50] ∧
    nums (after (send 0xC000 0 enc16)).x = [0xC424AB44, 0xF6B01E8C, 0xDD2D8BE2, 0x505D5266] := by decide +kernel

theorem test_encb_errors : answer 0xC000 0 loaded = (some ⟨4, 0⟩, 0x400) ∧ answer 0xC000 0 dec16 = (some ⟨5, 0⟩, 0x563) := by
  decide +kernel

/-- Section 1.6: the decryption of that ciphertext. -/
theorem test_decb : nums (after (send 0xC800 0 { dec16 with
    blk := #v[0x44, 0xab, 0x24, 0xc4, 0x8c, 0x1e, 0xb0, 0xf6, 0xe2, 0x8b, 0x2d, 0xdd, 0x66, 0x52, 0x5d, 0x50] })).blk =
    nums loaded.blk := by decide +kernel

/-- Section 8: under an Encrypt schedule, and with error 1 pending, which stays. -/
theorem test_decb_errors : answer 0xC800 0 enc16 = (some ⟨5, 0⟩, 0x561) ∧
    answer 0xC800 0 { enc16 with status := ⟨true, false, 24, 1⟩ } = (some ⟨5, 0⟩, 0x161) := by decide +kernel

/-- R66 by hand: with a table of zeros every round constant is 0, so the zero key's schedule is all zeros. -/
theorem test_ksched_other_table :
    nums (after (execWith (Vector.replicate 8 0) (.ksched 24 0) { loaded with keyb := State.reset.keyb })).sched[27] =
      [0, 0, 0, 0, 0, 0] ∧
    nums (after (exec (.ksched 24 0) { loaded with keyb := State.reset.keyb })).sched[27] ≠ [0, 0, 0, 0, 0, 0] := by decide +kernel

theorem test_illegal_word : answer 0xFFFF 0 loaded = (some ⟨3, 0⟩, 0x300) := by decide +kernel

/-- Section 2: the first round key of the published 192-bit vector. -/
theorem test_expand192 :
    ((expand192 Config.delta #v[0x0f, 0x1e, 0x2d, 0x3c, 0x4b, 0x5a, 0x69, 0x78, 0x87, 0x96, 0xa5, 0xb4, 0xc3, 0xd2, 0xe1, 0xf0, 0xf0,
      0xe1, 0xd2, 0xc3, 0xb4, 0xa5, 0x96, 0x87])[27]?).map nums =
      some [0xBD948525, 0x2C75004D, 0xC52486D5, 0x0F07E2FA, 0x1963E1FD, 0x882719C3] := by decide +kernel

/-! ## The port and the assembler -/

/-- R117: `rst = 1` keeps both outputs at 0 and resets the block. -/
theorem test_port_reset : portOut ⟨enc16, none⟩ ⟨true, true, 0xC000, 0⟩ = ⟨false, none⟩ ∧
    after (match portEdge Config.delta ⟨enc16, none⟩ ⟨true, true, 0xC000, 0⟩ with | .next q => .next q.core | _ => .next enc16) = State.reset := by
  decide +kernel

theorem test_port_busy : portOut ⟨enc16, some ⟨1, ⟨0, 0⟩⟩⟩ ⟨false, true, 0xC000, 0⟩ = ⟨false, none⟩ ∧
    portOut ⟨enc16, some ⟨0, ⟨5, 0⟩⟩⟩ ⟨false, true, 0xC000, 0⟩ = ⟨false, some ⟨5, 0⟩⟩ := by decide +kernel

/-- R49: the syntax of a line, with a comment, hexadecimal, and `DEC` for 1. -/
theorem test_parse : parseLine "WRBB 0, #0xAABBCC78 ; the byte 0x78" = some (some ⟨.wrbb, [0], some 0xAABBCC78⟩) ∧
    parseLine "KSCHED 16, DEC" = some (some ⟨.ksched, [16, 1], none⟩) ∧ parseLine "  ; nothing" = some none ∧
    parseLine "RDX DEC" = none := by decide +kernel

/-- Program P4, command 1; and a pseudo-command (R50). -/
theorem test_assemble : assemble ⟨.wrbb, [0], some 0xAABBCC78⟩ = some [.command 0x3000 0xAABBCC78] ∧
    assemble ⟨.ks128, [1], none⟩ = some [.command 0xA050 0] := by decide +kernel

/-! ## Witnesses: concrete states and operands that meet the hypotheses of the statements -/

theorem witness_DecodeAndEncodeAgree : decode 0x68BC = .ok (.rdsk 23 4) := by decide

theorem witness_IllegalWordsFail : ({ loaded with inbox := [.command 0xFFFF 0] } : State).inbox = .command 0xFFFF 0 :: [] ∧
    (∃ e, decode 0xFFFF = .error e) ∧ (∃ e, decode 0x2020 = .error e) :=
  ⟨rfl, ⟨.reservedOpcode, by decide⟩, ⟨.reservedBit, by decide⟩⟩

/-- For each command's statement: an illegal word of its opcode (section 7). -/
theorem witness_reserved_bits :
    (opcode 0x0001 = 0x00 ∧ (0x0001#16).extractLsb' 0 11 ≠ 0) ∧ (opcode 0x0C00 = 0x01 ∧ (0x0C00#16).extractLsb' 0 11 ≠ 0) ∧
    (opcode 0x1001 = 0x02 ∧ (0x1001#16).extractLsb' 0 11 ≠ 0) ∧ (opcode 0x2020 = 0x04 ∧ (0x2020#16).extractLsb' 5 6 ≠ 0) ∧
    (opcode 0x2C00 = 0x05 ∧ (0x2C00#16).extractLsb' 5 6 ≠ 0) ∧ (opcode 0x3010 = 0x06 ∧ (0x3010#16).extractLsb' 4 7 ≠ 0) ∧
    (opcode 0x3900 = 0x07 ∧ (0x3900#16).extractLsb' 4 7 ≠ 0) ∧ (opcode 0x4004 = 0x08 ∧ (0x4004#16).extractLsb' 2 9 ≠ 0) ∧
    (opcode 0x4808 = 0x09 ∧ (0x4808#16).extractLsb' 2 9 ≠ 0) ∧ (opcode 0x5008 = 0x0A ∧ (0x5008#16).extractLsb' 3 8 ≠ 0) ∧
    (opcode 0x5840 = 0x0B ∧ (0x5840#16).extractLsb' 3 8 ≠ 0) ∧ (opcode 0x6020 = 0x0C ∧ (0x6020#16).extractLsb' 5 6 ≠ 0) ∧
    (opcode 0x6900 = 0x0D ∧ (0x6900#16).extractLsb' 8 3 ≠ 0) ∧ (opcode 0x8005 = 0x10 ∧ (0x8005#16).extractLsb' 2 9 ≠ 0) ∧
    (opcode 0x8A03 = 0x11 ∧ (0x8A03#16).extractLsb' 2 9 ≠ 0) ∧ (opcode 0x9624 = 0x12 ∧ (0x9624#16).getLsbD 10 = true) ∧
    (opcode 0x9C01 = 0x13 ∧ (0x9C01#16).getLsbD 10 = true) ∧ (opcode 0xA150 = 0x14 ∧ (0xA150#16).extractLsb' 8 3 ≠ 0) ∧
    (opcode 0xB001 = 0x16 ∧ (0xB001#16).extractLsb' 0 11 ≠ 0) ∧ (opcode 0xBC00 = 0x17 ∧ (0xBC00#16).extractLsb' 0 11 ≠ 0) ∧
    (opcode 0xC400 = 0x18 ∧ (0xC400#16).extractLsb' 0 11 ≠ 0) ∧ (opcode 0xC801 = 0x19 ∧ (0xC801#16).extractLsb' 0 11 ≠ 0) := by
  decide

theorem witness_StepRunsTheDecodedCommand :
    ({ enc16 with inbox := [.command 0xC000 0] } : State).inbox = .command 0xC000 0 :: [] ∧ decode 0xC000 = .ok .encb ∧
    decodeTableWord 16 0xC000 = some .encb := ⟨rfl, by decide, by decide⟩

theorem witness_ResetFromAnyState : ({ enc16 with inbox := [.reset] } : State).inbox = .reset :: [] ∧
    (⟨false, false, 0, 0⟩ : PortIn).rst = false := ⟨rfl, rfl⟩

theorem witness_IdleStepHoldsTheState : loaded.inbox = [] := rfl

theorem witness_EveryCommandResponds :
    ({ loaded with inbox := [.command 0xFFFF 3] } : State).inbox = .command 0xFFFF 3 :: [] := rfl

theorem witness_ClreClearsTheError :
    exec .clre { loaded with status := ⟨false, false, 0, 6⟩ } = .next { loaded with rsp := some ⟨0, 0⟩ } ∧
    ({ loaded with status := ⟨false, false, 0, 6⟩ } : State).status.err ≠ 0 ∧
    ({ loaded with rsp := some ⟨0, 0⟩ } : State).status.err = 0 := ⟨rfl, by decide, rfl⟩

theorem witness_index_clauses : (¬ (5#3).toNat > 5 ∧ (6#3).toNat > 5) ∧ ((5#3).toNat < 6 ∧ ¬ (6#3).toNat < 6) := by decide

theorem witness_schedule_clauses : loaded.status.svalid = false ∧ enc16.status.svalid = true ∧
    ¬ enc16.status.snr.toNat ≤ (23#5).toNat ∧ enc16.status.snr.toNat ≤ (24#5).toNat ∧
    ((23#5).toNat < enc16.status.snr.toNat ∧ (5#3).toNat < 6) ∧
    ¬ ((23#5).toNat < enc16.status.snr.toNat ∧ (6#3).toNat < 6) := by decide +kernel

theorem witness_RotationMovesBits : 31 < 32 ∧ 36 % 32 ≠ 0 ∧ (32#8).toNat % 32 = 0 := by decide

theorem witness_expansions : 23 < (expand128 Config.delta (Vector.replicate 16 0)).length ∧
    27 < (expand192 Config.delta (Vector.replicate 24 0)).length ∧
    31 < (expand256 Config.delta (Vector.replicate 32 0)).length := by simp [expand128, expand192, expand256]

theorem witness_BuildScheduleChecksThenPlaces :
    ((List.replicate 17 (0 : Byte)).length ∉ [16, 24, 32] ∧ (List.replicate 10 (0 : Byte)).length = 10) ∧
    ((List.replicate 24 (0 : Byte)).length ∈ [16, 24, 32] ∧ (2 : BitVec 2) ∉ [0, 1]) ∧
    ((List.replicate 16 (0 : Byte)).length ∈ [16, 24, 32] ∧ (0 : BitVec 2) ∈ [0, 1]) ∧
    ((List.replicate 32 (0 : Byte)).length ∈ [16, 24, 32] ∧ (1 : BitVec 2) ∈ [0, 1]) := by decide

/-- Of `DecryptScheduleIsReversed`, `ScheduleLengthAndRedundancy` and `BlockRoundTrip`: schedules are built. -/
theorem witness_BlockRoundTrip : ∃ E D : KeySchedule, E.length = 24 ∧ 23 < E.length ∧
    buildSchedule Config.delta (List.replicate 16 0) 0 = .ok E ∧ buildSchedule Config.delta (List.replicate 16 0) 1 = .ok D := by
  obtain ⟨EK, hl, h⟩ := buildSchedule_of_length Config.delta .k128 (List.replicate 16 0) (by simp [KeyLength.bytes])
  exact ⟨EK, EK.reverse, hl, by rw [hl]; decide, h 0, h 1⟩

theorem witness_KschedBuildsTheSchedule : (17#6).toNat ∉ [16, 24, 32] ∧ (63#6).toNat ∉ [16, 24, 32] ∧
    (∀ klen ∈ [16#6, 24, 32], klen.toNat ∈ [16, 24, 32]) ∧ (2#2).toNat ∉ [0, 1] ∧ (∀ dir ∈ [0#2, 1], dir.toNat ∈ [0, 1]) := by
  decide

theorem witness_KschedSucceeds : 32#6 ∈ [16, 24, 32] ∧ 1#2 ∈ [0, 1] := by decide

/-- The three clauses of `ENCB` and of `DECB`, the two of `HandSteppingEqualsTheBlockCommand`, and a last row below `SNR`. -/
theorem witness_block_commands :
    (loaded.status.Legal ∧ loaded.status.svalid = false) ∧
    (enc16.status.Legal ∧ enc16.status.svalid = true ∧ enc16.status.sdir = false ∧ 23 < enc16.status.snr.toNat) ∧
    (dec16.status.Legal ∧ dec16.status.svalid = true ∧ dec16.status.sdir = true ∧ 23 < dec16.status.snr.toNat) := by
  have e : enc16.status = ⟨true, false, 24, 0⟩ := by decide +kernel
  have d : dec16.status = ⟨true, true, 24, 0⟩ := by decide +kernel
  rw [e, d]
  simp [Status.Legal, loaded, State.reset]

theorem witness_MachineRoundTrip : 24#6 ∈ [16, 24, 32] := by decide

/-- A failed command: of `FailedCommandChangesOnlyErr`, `FirstErrorSticks`. -/
theorem witness_FailedCommandChangesOnlyErr :
    step { loaded with inbox := [.command 0xC000 0] } = .next (failed 4 loaded) ∧ (failed 4 loaded).rsp = some ⟨4, 0⟩ ∧
    (⟨4, 0⟩ : Response).err ≠ 0 ∧ decode 0xC000 ≠ .ok .clre ∧ decode 0xC000 ≠ .ok .rdst := by
  refine ⟨?_, rfl, by decide, by decide, by decide⟩
  simp only [step, stepWith, runCommand, show decode 0xC000 = .ok .encb by decide]
  rfl

/-- The premises of the clauses of `WhoWritesWhat`: a command that changes each piece of state, and one that is no `KSCHED`. -/
theorem witness_WhoWritesWhat :
    (after (exec (.wrx 0) { loaded with wdata := 5 })).x ≠ loaded.x ∧
    (after (exec (.wrrk 5) { loaded with wdata := 5 })).rkr ≠ loaded.rkr ∧
    (after (exec (.wrkb 31) { loaded with wdata := 5 })).keyb ≠ loaded.keyb ∧
    (after (exec (.wrbb 15) { loaded with wdata := 5 })).blk ≠ loaded.blk ∧
    (after (exec (.wrrk 6) loaded)).status.err ≠ loaded.status.err ∧
    ∀ klen dir, Instr.nop ≠ .ksched klen dir := by decide +kernel

/-- The two ways to meet the premise of `DataOperandIgnored`. -/
theorem witness_DataOperandIgnored :
    (exec .nop loaded = .next { loaded with rsp := some ⟨0, 0⟩ } ∧ (∀ a, Instr.nop ≠ .wrkb a) ∧ (∀ a, Instr.nop ≠ .wrbb a) ∧
      (∀ j, Instr.nop ≠ .wrx j) ∧ ∀ k, Instr.nop ≠ .wrrk k) ∧
    ((∃ t, exec (.wrkb 31) loaded = .next t) ∧ (∃ a, Instr.wrkb 31 = .wrkb a) ∧
      (0xAABBCC00 : Word).extractLsb' 0 8 = loaded.wdata.extractLsb' 0 8) :=
  ⟨⟨rfl, by decide, by decide, by decide, by decide⟩, ⟨_, rfl⟩, ⟨31, rfl⟩, by decide⟩

theorem witness_OnlyReadsReturnData : exec (.rdkb 16) loaded = .next { loaded with rsp := some ⟨0, 16⟩ } ∧
    (⟨0, 16⟩ : Response).rdata ≠ 0 := by
  refine ⟨?_, by decide⟩
  have h : loaded.keyb[keyByteIndex 16].setWidth 32 = (16 : Word) := by decide +kernel
  show reply _ _ = _
  rw [h]; rfl

theorem witness_NothingElsePersists : ({ loaded with inbox := [.command 0xC000 0] } : State).inbox ≠ [] := by simp

/-- A state with a valid schedule that has the invariant, and steps. -/
theorem witness_StepKeepsTheInvariant : ∃ s t : State, Inv Config.delta s ∧
    s.status.svalid = true ∧ step s = .next t ∧ stepWith Config.delta s = .next t := by
  obtain ⟨EK, hl, h⟩ := buildSchedule_of_length Config.delta .k128 (List.replicate 16 0) (by simp [KeyLength.bytes])
  have hl : EK.length = 24 := hl
  refine ⟨{ loaded with sched := storeSchedule EK loaded.sched, status := ⟨true, false, 24, 6⟩ }, _, ⟨?_, ?_, ?_⟩, rfl, rfl, rfl⟩
  · simp [Status.Legal]
  · intro _
    refine ⟨_, 0, EK, h 0, by simp [hl], rfl, fun i hi => ?_⟩
    simpa [hi] using getElem_storeSchedule EK loaded.sched i.val i.isLt
  · simp [ResponseLegal, loaded, State.reset]

theorem witness_OutcomeIndependentOfData : loaded.status = State.reset.status ∧ loaded.keyb ≠ State.reset.keyb :=
  ⟨rfl, by decide +kernel⟩

theorem witness_ResponseFollowsByLatency : (⟨enc16, none⟩ : PortState).inFlight = none ∧
    (∀ x ∈ ([] : List PortIn), x.rst = false) ∧ (⟨false, true, 0xC000, 0⟩ : PortIn).rst = false ∧
    ([] : List PortIn).length ≤ Config.latency 0xC000 true false 24 false := by simp

/-- Runs of inputs that end in the cycle of the response and in the one after it. -/
theorem witness_ResponseFollowsByLatency_boundary : ∃ before after : List PortIn,
    (∀ x ∈ before, x.rst = false) ∧ before.length + 1 = Config.latency 0xC000 true false 24 false ∧
    (∀ x ∈ after, x.rst = false) ∧ after.length = Config.latency 0xC000 true false 24 false := by
  refine ⟨.replicate (Config.extraLatency 0xC000 true false 24 false) ⟨false, false, 0, 0⟩,
    .replicate (Config.latency 0xC000 true false 24 false) ⟨false, false, 0, 0⟩, ?_, ?_, ?_, ?_⟩ <;>
    simp [Config.latency]

/-- Two blocks with different keys, and runs of inputs that differ in the data operand. -/
theorem witness_TimingIndependentOfData :
    (⟨loaded, none⟩ : PortState).control = PortState.reset.control ∧
    [(⟨false, true, 0x2000, 1⟩ : PortIn)].map PortIn.control = [(⟨false, true, 0x2000, 2⟩ : PortIn)].map PortIn.control ∧
    loaded.keyb ≠ PortState.reset.core.keyb := ⟨rfl, rfl, by decide +kernel⟩

theorem witness_AssembledLinesDecode : assemble ⟨.ldrk, [23], none⟩ = some [.command 0x6017 0] := by decide +kernel

/-- The boundaries of R43's widths, the last operand that fits and the first that does not, for each width. -/
theorem witness_assemble_boundaries :
    assemble ⟨.rdkb, [31], none⟩ = some [.command 0x281F 0] ∧ assemble ⟨.rdkb, [32], none⟩ = none ∧
    assemble ⟨.wrbb, [15], some 0xFFFFFFFF⟩ = some [.command 0x300F 0xFFFFFFFF] ∧ assemble ⟨.wrbb, [16], some 0⟩ = none ∧
    assemble ⟨.wrbb, [15], some 0x100000000⟩ = none ∧
    assemble ⟨.b2w, [3], none⟩ = some [.command 0x8003 0] ∧ assemble ⟨.b2w, [4], none⟩ = none ∧
    assemble ⟨.rdsk, [31, 7], none⟩ = some [.command 0x68FF 0] ∧ assemble ⟨.rdsk, [31, 8], none⟩ = none ∧
    assemble ⟨.rdsk, [32, 7], none⟩ = none ∧
    assemble ⟨.ksched, [63, 3], none⟩ = some [.command 0xA0FF 0] ∧ assemble ⟨.ksched, [64, 3], none⟩ = none ∧
    assemble ⟨.ksched, [63, 4], none⟩ = none ∧
    assemble ⟨.rol, [3, 255], none⟩ = some [.command 0x93FF 0] ∧ assemble ⟨.rol, [3, 256], none⟩ = none ∧
    assemble ⟨.rol, [4, 255], none⟩ = none := by decide +kernel

/-- A wrong number of operands; data missing, and data where the form has none. -/
theorem witness_assemble_shapes : assemble ⟨.encb, [], none⟩ = some [.command 0xC000 0] ∧ assemble ⟨.encb, [0], none⟩ = none ∧
    assemble ⟨.ror, [3], none⟩ = none ∧ assemble ⟨.wrx, [3], none⟩ = none ∧ assemble ⟨.rdx, [3], some 0⟩ = none ∧
    assemble ⟨.ks256, [3], none⟩ = some [.command 0xA0E0 0] ∧ assemble ⟨.ks256, [4], none⟩ = none := by decide +kernel

end Sys2Proof.Tests
end

section
/-! PROOFS. What one step does: an equation for `runCommand` and `stepWith` per outcome of the decoder, and from them
statement O5, that a step runs the decoded command (`30_encoding.md` section 1, `00_scope.md` R7). -/

namespace Sys2Proof.Machine

/-- The decoder's reading of a table's word, as a fact about `decode`. -/
theorem decodeTableWord_eq_some {nbits w : Nat} {i : Instr} :
    decodeTableWord nbits w = some i ↔ decode (tableWord nbits w) = .ok i := by
  unfold decodeTableWord
  split
  · rename_i h; simp [h]
  · rename_i h; simp [h]

@[simp] theorem State.withFetchWord_inbox (s : State) (nbits w : Nat) :
    (s.withFetchWord nbits w).inbox = .command (tableWord nbits w) s.wdata :: s.inbox := rfl

/-- A legal command word runs its command. -/
theorem runCommand_of_decode_ok {C : BitVec 16} {i : Instr} (h : decode C = .ok i) (delta : Vector Word 8) (d : Word)
    (s : State) : runCommand delta C d s = execWith delta i (s.accept d) := by
  simp only [runCommand, h]

/-- The step on a command is that command, with its event taken from the inbox. -/
theorem stepWith_of_command {s : State} {C : BitVec 16} {d : Word} {rest : List PortEvent}
    (h : s.inbox = .command C d :: rest) (delta : Vector Word 8) :
    stepWith delta s = runCommand delta C d { s with inbox := rest } := by
  simp only [stepWith, h]

/-- The machine's own step is the one at the default table (log entry 1). -/
@[simp] theorem stepWith_default (s : State) : stepWith Config.delta s = step s := rfl

/-- The step on a command word that decodes to `i`, under every table. -/
theorem stepWith_of_decode_ok {s : State} {C : BitVec 16} {d : Word} {rest : List PortEvent} {i : Instr}
    (hin : s.inbox = .command C d :: rest) (hdec : decode C = .ok i) (delta : Vector Word 8) :
    stepWith delta s = execWith delta i { s with wdata := d, rsp := none, inbox := rest } := by
  calc stepWith delta s
    _ = runCommand delta C d { s with inbox := rest } := stepWith_of_command hin delta
    _ = execWith delta i (({ s with inbox := rest } : State).accept d) := runCommand_of_decode_ok hdec delta d _
    _ = execWith delta i { s with wdata := d, rsp := none, inbox := rest } := rfl

/-- The step on a command word that decodes to `i`, at the default table. -/
theorem step_of_decode_ok {s : State} {C : BitVec 16} {d : Word} {rest : List PortEvent} {i : Instr}
    (hin : s.inbox = .command C d :: rest) (hdec : decode C = .ok i) :
    step s = exec i { s with wdata := d, rsp := none, inbox := rest } := by
  rw [← stepWith_default, stepWith_of_decode_ok hin hdec, execWith_default]

/-- The step after `withFetchWord` of a word the decoder reads as `i`, under every table: the event placed is the event
taken, and the data operand is the one the state holds (log entry 5). -/
theorem stepWith_withFetchWord {nbits w : Nat} {i : Instr} (h : decodeTableWord nbits w = some i) (delta : Vector Word 8)
    (s : State) : stepWith delta (s.withFetchWord nbits w) = execWith delta i { s with rsp := none } :=
  stepWith_of_decode_ok (s.withFetchWord_inbox nbits w) (decodeTableWord_eq_some.mp h) delta

/-- The same step at the default table. -/
theorem step_withFetchWord {nbits w : Nat} {i : Instr} (h : decodeTableWord nbits w = some i) (s : State) :
    step (s.withFetchWord nbits w) = exec i { s with rsp := none } := by
  rw [← stepWith_default, stepWith_withFetchWord h, execWith_default]

/-- Settles O5: the equations of a step on a decoded command, and the model's own of `execWith`. -/
theorem stepRunsTheDecodedCommand : Obligations.StepRunsTheDecodedCommand := by
  unfold Obligations.StepRunsTheDecodedCommand
  refine ⟨?command, ?fetchWord, execWith_ksched, execWith_of_ne, execWith_default, stepWith_default, rfl⟩
  case command =>
    intro C d rest i s hin hdec
    exact ⟨step_of_decode_ok hin hdec, stepWith_of_decode_ok hin hdec⟩
  case fetchWord =>
    intro nbits w i s h
    exact ⟨step_withFetchWord h s, fun delta => stepWith_withFetchWord h delta s⟩

end Sys2Proof.Machine
end

section
/-! PROOFS. The state as a whole (`10_state.md`): which pieces a command may write, and the invariant of `STATUS` and `SCHED`.
`execWith_ends` says once, for every command and every table, how it ends; the statements O49 and O53 are read off from its
cases. O52, O6 and O54 are about a step's independence of the model's own fields and about the reset state. -/

namespace Sys2Proof.Machine

/-! ## How a command ends -/

/-- The write columns of R25 (`10_state.md` section 9): `Writes delta s i u` says that the command `i` may leave the
pieces of state as `u` has them when it succeeds in `s`. What `KSCHED` installs is a schedule built from `KEYB`. -/
inductive Writes (delta : Vector Word 8) (s : State) : Instr → State → Prop
  | nothing {i : Instr} : Writes delta s i s
  | x {i : Instr} (v : Vector Word 4)
      (hi : (∃ j, i = .wrx j ∨ i = .b2w j) ∨ (∃ j r, i = .rol j r ∨ i = .ror j r) ∨ i = .encr ∨ i = .decr) :
      Writes delta s i (s.withX v)
  | rkr {i : Instr} (v : Vector Word 6) (hi : (∃ k, i = .wrrk k) ∨ ∃ row, i = .ldrk row) :
      Writes delta s i (s.withRkr v)
  | keyb (a : BitVec 5) (v : Vector Byte 32) : Writes delta s (.wrkb a) (s.withKeyb v)
  | blk {i : Instr} (v : Vector Byte 16) (hi : (∃ a, i = .wrbb a) ∨ ∃ j, i = .w2b j) :
      Writes delta s i (s.withBlk v)
  | block {i : Instr} (v : Vector Word 4) (hi : i = .encb ∨ i = .decb) : Writes delta s i (storeBlock v s)
  | schedule {klen : BitVec 6} {dir : BitVec 2} {L : KeyLength} {S : KeySchedule}
      (hS : buildSchedule delta (keyBytes L s) dir = .ok S) :
      Writes delta s (.ksched klen dir) (installSchedule S dir s)
  | error : Writes delta s .clre (acknowledge s)

/-- The two ways the command `i` can end in `s`: failed, or with its writes done and a response of code 0. -/
inductive Ends (delta : Vector Word 8) (i : Instr) (s : State) : Outcome → Prop
  | failed (code : ErrorCode) : Ends delta i s (.next (Machine.failed code.code s))
  | success {u : State} (d : Word) (hu : Writes delta s i u) : Ends delta i s (.next (u.respond 0 d))

section
variable {delta : Vector Word 8} {i : Instr} {s u : State}

theorem Ends.raiseErr (code : ErrorCode) : Ends delta i s (raiseErr code s) := by
  rw [raiseErr_eq]; exact .failed code

theorem Ends.done (hu : Writes delta s i u) : Ends delta i s (done u) := .success 0 hu

theorem Ends.reply (d : Word) : Ends delta i s (reply d s) := .success d .nothing

end

/-- `KSCHED` ends with an error or with the schedule of a key of `KEYB` installed (R75). -/
theorem kschedWith_ends (delta : Vector Word 8) (klen : BitVec 6) (dir : BitVec 2) (s : State) :
    Ends delta (.ksched klen dir) s (kschedWith delta klen dir s) := by
  unfold kschedWith
  split
  · exact .raiseErr _
  · split
    next => exact .raiseErr _
    next hS => exact .done (.schedule hS)

/-- Every command ends in one of the two ways, having written no more than its row of R25 allows. -/
theorem execWith_ends (delta : Vector Word 8) (i : Instr) (s : State) : Ends delta i s (execWith delta i s) := by
  cases i with
  | nop => exact .done .nothing
  | rdst | rdkb | rdbb | rdx => exact .reply _
  | clre => exact .done .error
  | wrkb a => exact .done (.keyb a _)
  | wrbb a => exact .done (.blk _ (.inl ⟨a, rfl⟩))
  | w2b j => exact .done (.blk _ (.inr ⟨j, rfl⟩))
  | wrx j => exact .done (.x _ (.inl ⟨j, .inl rfl⟩))
  | b2w j => exact .done (.x _ (.inl ⟨j, .inr rfl⟩))
  | rol j r => exact .done (.x _ (.inr (.inl ⟨j, r, .inl rfl⟩)))
  | ror j r => exact .done (.x _ (.inr (.inl ⟨j, r, .inr rfl⟩)))
  | encr => exact .done (.x _ (.inr (.inr (.inl rfl))))
  | decr => exact .done (.x _ (.inr (.inr (.inr rfl))))
  | wrrk k =>
    show Ends delta _ s (execWrrk k s)
    unfold execWrrk; split
    · exact .raiseErr _
    · exact .done (.rkr _ (.inl ⟨k, rfl⟩))
  | rdrk k =>
    show Ends delta _ s (execRdrk k s)
    unfold execRdrk; split
    · exact .raiseErr _
    · exact .reply _
  | ldrk row =>
    show Ends delta _ s (execLdrk row s)
    unfold execLdrk; split
    · split
      · exact .raiseErr _
      · exact .done (.rkr _ (.inr ⟨row, rfl⟩))
    · exact .raiseErr _
  | rdsk row k =>
    show Ends delta _ s (execRdsk row k s)
    unfold execRdsk; split
    · split
      · exact .reply _
      · exact .raiseErr _
    · exact .raiseErr _
  | ksched klen dir => exact kschedWith_ends delta klen dir s
  | encb =>
    show Ends delta _ s (execEncb s)
    unfold execEncb; split
    · split
      · exact .raiseErr _
      · exact .done (.block _ (.inl rfl))
    · exact .raiseErr _
  | decb =>
    show Ends delta _ s (execDecb s)
    unfold execDecb; split
    · split
      · exact .done (.block _ (.inr rfl))
      · exact .raiseErr _
    · exact .raiseErr _

/-! ## The write columns of R25 -/

section
variable {delta : Vector Word 8} {i : Instr} {s u : State}

theorem Writes.x_column (h : Writes delta s i u) (hx : u.x ≠ s.x) :
    (∃ j, i = .wrx j ∨ i = .b2w j) ∨ (∃ j r, i = .rol j r ∨ i = .ror j r) ∨
      i = .encr ∨ i = .decr ∨ i = .encb ∨ i = .decb := by
  cases h with
  | x v hi => exact hi.imp_right (.imp_right (.imp_right .inl))
  | block v hi => exact .inr (.inr (.inr (.inr hi)))
  | _ => exact absurd rfl hx

theorem Writes.rkr_column (h : Writes delta s i u) (hrkr : u.rkr ≠ s.rkr) :
    (∃ k, i = .wrrk k) ∨ ∃ row, i = .ldrk row := by
  cases h with
  | rkr v hi => exact hi
  | _ => exact absurd rfl hrkr

theorem Writes.keyb_column (h : Writes delta s i u) (hkeyb : u.keyb ≠ s.keyb) : ∃ a, i = .wrkb a := by
  cases h with
  | keyb a v => exact ⟨a, rfl⟩
  | _ => exact absurd rfl hkeyb

theorem Writes.blk_column (h : Writes delta s i u) (hblk : u.blk ≠ s.blk) :
    (∃ a, i = .wrbb a) ∨ (∃ j, i = .w2b j) ∨ i = .encb ∨ i = .decb := by
  cases h with
  | blk v hi => exact hi.imp_right .inl
  | block v hi => exact .inr (.inr hi)
  | _ => exact absurd rfl hblk

/-- `SCHED` and the three schedule fields of `STATUS` are `KSCHED`'s alone (R19). -/
theorem Writes.schedule_column (h : Writes delta s i u) (hi : ∀ klen dir, i ≠ .ksched klen dir) :
    u.sched = s.sched ∧ u.status.svalid = s.status.svalid ∧ u.status.sdir = s.status.sdir ∧
      u.status.snr = s.status.snr := by
  cases h with
  | schedule hS => exact absurd rfl (hi _ _)
  | _ => exact ⟨rfl, rfl, rfl, rfl⟩

theorem Writes.err_column (h : Writes delta s i u) (herr : u.status.err ≠ s.status.err) : i = .clre := by
  cases h with
  | error => rfl
  | _ => exact absurd rfl herr

/-- The host's events and the sampled data operand are no command's to write. -/
theorem Writes.inbox_wdata (h : Writes delta s i u) : u.inbox = s.inbox ∧ u.wdata = s.wdata := by
  cases h <;> exact ⟨rfl, rfl⟩

end

/-- Settles O49, by the two ways a command ends: a failed one has changed `STATUS.ERR` alone, a successful one has
written by its columns of R25. -/
theorem whoWritesWhat : Obligations.WhoWritesWhat := by
  unfold Obligations.WhoWritesWhat
  intro i s t ht
  have hends := execWith_ends Config.delta i s
  rw [execWith_default, ht] at hends
  cases hends with
  | failed code =>
    exact ⟨absurd rfl, absurd rfl, absurd rfl, absurd rfl, fun _ => ⟨rfl, rfl, rfl, rfl⟩,
      fun _ => .inr ⟨_, rfl, code.code_range.1⟩, rfl, rfl⟩
  | success d hu =>
    exact ⟨hu.x_column, hu.rkr_column, hu.keyb_column, hu.blk_column, hu.schedule_column,
      fun herr => .inl (hu.err_column herr), hu.inbox_wdata⟩

/-! ## The invariant of `STATUS` and `SCHED` (R17, R18) -/

/-- The six bits of `SNR` hold the number of rounds of every key length (R17, R62). -/
theorem toNat_ofNat_rounds (L : KeyLength) : (BitVec.ofNat 6 L.rounds).toNat = L.rounds := by
  cases L <;> rfl

/-- Ordering round keys succeeds for the two directions only, and keeps their number (R71). -/
theorem ordered_eq_ok {EK S : KeySchedule} {dir : BitVec 2} (h : ordered EK dir = .ok S) :
    S.length = EK.length ∧ (dir = 0 ∨ dir = 1) := by
  unfold ordered at h
  rcases directionOf_eq dir with ⟨hdir, hd⟩ | ⟨hdir, hd⟩ | ⟨-, hd⟩ <;> rw [hd] at h <;> cases h
  · exact ⟨length_inDirection EK .encrypt, .inl hdir⟩
  · exact ⟨length_inDirection EK .decrypt, .inr hdir⟩

/-- A schedule built from a key of a legal length has `Nr` rows, for a direction 0 or 1 (R71, R73). -/
theorem buildSchedule_eq_ok {delta : Vector Word 8} {L : KeyLength} {key : List Byte} {dir : BitVec 2} {S : KeySchedule}
    (hkey : key.length = L.bytes) (h : buildSchedule delta key dir = .ok S) :
    S.length = L.rounds ∧ (dir = 0 ∨ dir = 1) := by
  obtain ⟨EK, hlen, hbuild⟩ := buildSchedule_of_length delta L key hkey
  rw [hbuild] at h
  obtain ⟨hS, hdir⟩ := ordered_eq_ok h
  exact ⟨hS.trans hlen, hdir⟩

/-- Only the bound on `ERR` is at stake when `ERR` alone is written. -/
theorem Status.Legal.withErr {st : Status} (h : st.Legal) {e : BitVec 4} (he : e.toNat ≤ 6) :
    ({ st with err := e } : Status).Legal := by
  obtain ⟨hinvalid, hvalid, -⟩ := h
  exact ⟨hinvalid, hvalid, he⟩

/-- `STATUS` is legal once a schedule of a key length's number of rounds is built (R75). -/
theorem Status.Legal.scheduleBuilt {st : Status} (h : st.Legal) (L : KeyLength) (dir : BitVec 2) :
    (st.scheduleBuilt dir L.rounds).Legal := by
  obtain ⟨-, -, herr⟩ := h
  refine ⟨by simp, fun _ => ?snr, herr⟩
  rw [Status.scheduleBuilt_snr, toNat_ofNat_rounds]
  cases L <;> decide

theorem responseLegal_of_rsp_none {s : State} (h : s.rsp = none) : ResponseLegal s := by
  simp [ResponseLegal, h]

theorem responseLegal_respond_zero (d : Word) (s : State) : ResponseLegal (s.respond 0 d) := by
  simp [ResponseLegal]

theorem responseLegal_failed (code : ErrorCode) (s : State) : ResponseLegal (failed code.code s) := by
  intro r hr
  cases hr
  exact ⟨code.code_range.2, fun _ => rfl⟩

section
variable {delta : Vector Word 8} {s t : State}

/-- The invariant looks at `STATUS`, `SCHED` and the response only. -/
theorem Inv.of_frame (h : Inv delta s) (hstatus : t.status = s.status) (hsched : t.sched = s.sched)
    (hrsp : ResponseLegal t) : Inv delta t where
  status := hstatus ▸ h.status
  schedule := by
    have hbuilt := h.schedule
    unfold ScheduleBuilt at hbuilt ⊢
    rwa [hstatus, hsched]
  response := hrsp

/-- A failed command records at most a legal code (R107, R108). -/
theorem Inv.failed (h : Inv delta s) (code : ErrorCode) : Inv delta (failed code.code s) where
  status := by
    obtain ⟨-, -, herr⟩ := h.status
    refine h.status.withErr ?_
    split
    · exact code.code_range.2
    · exact herr
  schedule := h.schedule
  response := responseLegal_failed code s

/-- Installing a schedule built from `KEYB` establishes R18 for that schedule, whatever was there. -/
theorem Inv.installSchedule (h : Inv delta s) {L : KeyLength} {dir : BitVec 2} {S : KeySchedule}
    (hS : buildSchedule delta (keyBytes L s) dir = .ok S) (d : Word) :
    Inv delta ((installSchedule S dir s).respond 0 d) := by
  obtain ⟨hlen, hdir⟩ := buildSchedule_eq_ok (length_keyBytes L s) hS
  have hlegal : (s.status.scheduleBuilt dir S.length).Legal := hlen ▸ h.status.scheduleBuilt L dir
  refine ⟨hlegal, fun _ => ⟨keyBytes L s, dir, S, hS, ?snr, ?sdir, ?rows⟩, responseLegal_respond_zero d _⟩
  case snr =>
    calc S.length
      _ = L.rounds := hlen
      _ = (BitVec.ofNat 6 L.rounds).toNat := (toNat_ofNat_rounds L).symm
      _ = (BitVec.ofNat 6 S.length).toNat := by rw [hlen]
  case sdir =>
    rcases hdir with rfl | rfl <;> rfl
  case rows =>
    intro i hi
    calc (storeSchedule S s.sched)[i.val]
      _ = if h : i.val < S.length then S[i.val] else s.sched[i.val] := getElem_storeSchedule S s.sched i.val i.isLt
      _ = S[i.val] := dif_pos hi

/-- Every way a command may end keeps the invariant. -/
theorem Inv.of_ends {i : Instr} (h : Inv delta s) (hends : Ends delta i s (.next t)) : Inv delta t := by
  cases hends with
  | failed code => exact h.failed code
  | success d hu =>
    cases hu with
    | schedule hS => exact h.installSchedule hS d
    | error => exact ⟨h.status.withErr (by decide), h.schedule, responseLegal_respond_zero d _⟩
    | _ => exact h.of_frame rfl rfl (responseLegal_respond_zero d _)

end

/-- The reset state has no schedule, no error and no response (R26). -/
theorem inv_reset (delta : Vector Word 8) : Inv delta State.reset where
  status := by simp [Status.Legal, State.reset]
  schedule := nofun
  response := responseLegal_of_rsp_none rfl

/-- An illegal command word fails with `ERR_ILLEGAL` (`30_encoding.md` R47). -/
theorem runCommand_of_decode_error {C : BitVec 16} {e : DecodeError} (h : decode C = .error e) (delta : Vector Word 8)
    (d : Word) (s : State) : runCommand delta C d s = .next (failed ErrorCode.illegal.code (s.accept d)) := by
  simp only [runCommand, h, raiseErr_eq]

/-- A command word keeps the invariant, legal or not. -/
theorem Inv.runCommand {delta : Vector Word 8} {C : BitVec 16} {d : Word} {s t : State} (h : Inv delta s)
    (ht : runCommand delta C d s = .next t) : Inv delta t := by
  have haccept : Inv delta (s.accept d) := h.of_frame rfl rfl (responseLegal_of_rsp_none rfl)
  cases hdec : decode C with
  | error e =>
    rw [runCommand_of_decode_error hdec] at ht
    cases ht
    exact haccept.failed .illegal
  | ok i =>
    rw [runCommand_of_decode_ok hdec] at ht
    exact haccept.of_ends (ht ▸ execWith_ends delta i (s.accept d))

/-- One step keeps the invariant, by the event it takes. -/
theorem Inv.stepWith {delta : Vector Word 8} {s t : State} (h : Inv delta s) (ht : stepWith delta s = .next t) :
    Inv delta t := by
  cases hin : s.inbox with
  | nil =>
    simp only [Machine.stepWith, hin] at ht
    cases ht
    exact h.of_frame rfl rfl (responseLegal_of_rsp_none rfl)
  | cons event rest =>
    cases event with
    | reset =>
      simp only [Machine.stepWith, hin] at ht
      cases ht
      exact (inv_reset delta).of_frame rfl rfl (responseLegal_of_rsp_none rfl)
    | command C d =>
      rw [stepWith_of_command hin] at ht
      have hrest : Inv delta { s with inbox := rest } := h.of_frame rfl rfl h.response
      exact hrest.runCommand ht

/-- Settles O53: `Inv.stepWith` for every table, and for `step`, which is the default table's. -/
theorem stepKeepsTheInvariant : Obligations.StepKeepsTheInvariant := by
  unfold Obligations.StepKeepsTheInvariant
  exact ⟨fun _ _ h ht => h.stepWith ht, fun _ _ _ h ht => h.stepWith ht⟩

/-- Settles O54. -/
theorem resetHasTheInvariant : Obligations.ResetHasTheInvariant := by
  unfold Obligations.ResetHasTheInvariant
  exact inv_reset

/-! ## What a step does not look at (R12), and the state after reset (R26) -/

/-- An accepted command sees the state only as sampling leaves it. -/
theorem runCommand_congr {s s' : State} {d : Word} (h : s.accept d = s'.accept d) (delta : Vector Word 8)
    (C : BitVec 16) : runCommand delta C d s = runCommand delta C d s' := by
  simp only [runCommand, h]

/-- Settles O52: Reset answers a state of its own, and a command's sampling overwrites both of the model's records. -/
theorem nothingElsePersists : Obligations.NothingElsePersists := by
  unfold Obligations.NothingElsePersists
  intro s d r hne
  obtain ⟨event, rest, hin⟩ := List.exists_cons_of_ne_nil hne
  cases event with
  | reset => simp only [step, stepWith, hin, applyReset]
  | command C d' =>
    calc step { s with wdata := d, rsp := r }
      _ = runCommand Config.delta C d' { s with wdata := d, rsp := r, inbox := rest } :=
        stepWith_of_command (s := { s with wdata := d, rsp := r }) hin _
      _ = runCommand Config.delta C d' { s with inbox := rest } := runCommand_congr rfl _ C
      _ = step s := (stepWith_of_command hin _).symm

/-- Settles O6: every storage space is a replicated zero, and so are the fields of `STATUS`. -/
theorem resetStateIsZero : Obligations.ResetStateIsZero := by
  unfold Obligations.ResetStateIsZero
  refine ⟨?x, ?rkr, ?sched, ?keyb, ?blk, rfl, by decide⟩
  all_goals simp [State.reset]

end Sys2Proof.Machine
end

section
/-! PROOFS. The decoder and the encoder (`30_encoding.md` R43 to R47). No two rows of the opcode map match the same word, so a
word decodes to what the one row that matches it builds; and a row matches exactly the words with its opcode and zeros in the
bits its format reserves. Statements O2 and O3 are read off from these two facts. -/

namespace Sys2Proof.Machine

/-! ## The rows of the opcode map -/

/-- The word is the row's command (R45): `(C and mask) = match`. -/
def Matches (row : OpcodeRow) (C : BitVec 16) : Prop := C &&& row.mask = row.pattern

/-- Two rows of the map differ in a bit that both masks cover. -/
theorem opcodeMap_pairwise_differ :
    opcodeMap.Pairwise fun row row' => row.pattern &&& row'.mask ≠ row'.pattern &&& row.mask := by decide

/-- Two rows that match one word agree in every bit that both masks cover. -/
theorem Matches.agree {row row' : OpcodeRow} {C : BitVec 16} (h : Matches row C) (h' : Matches row' C) :
    row.pattern &&& row'.mask = row'.pattern &&& row.mask := by
  calc row.pattern &&& row'.mask
    _ = C &&& row.mask &&& row'.mask := by rw [h]
    _ = C &&& row'.mask &&& row.mask := by rw [BitVec.and_assoc, BitVec.and_comm row.mask, BitVec.and_assoc]
    _ = row'.pattern &&& row.mask := by rw [h']

/-- The search of the decoder finds the row that matches, whichever it is. -/
theorem find?_opcodeMap_eq_some_iff {C : BitVec 16} {row : OpcodeRow} :
    opcodeMap.find? (fun row => C &&& row.mask == row.pattern) = some row ↔ row ∈ opcodeMap ∧ Matches row C := by
  constructor
  · intro h
    exact ⟨List.mem_of_find?_eq_some h, by simpa [Matches] using List.find?_some h⟩
  · rintro ⟨hmem, hmatch⟩
    obtain ⟨before, after, hsplit⟩ := List.append_of_mem hmem
    refine List.find?_eq_some_iff_append.mpr ⟨beq_iff_eq.mpr hmatch, before, after, hsplit, fun row' hrow' => ?_⟩
    have hdiffer := (List.pairwise_append.mp (hsplit ▸ opcodeMap_pairwise_differ)).2.2 row' hrow' row (by simp)
    have hnot : ¬ Matches row' C := fun h => hdiffer (h.agree hmatch)
    simpa [Matches] using hnot

/-- A word decodes to `i` exactly when a row of the map matches it and builds `i`. -/
theorem decode_eq_ok_iff {C : BitVec 16} {i : Instr} :
    decode C = .ok i ↔ ∃ row ∈ opcodeMap, Matches row C ∧ i = row.build C := by
  unfold decode
  constructor
  · split
    next row hfind =>
      intro h
      obtain ⟨hmem, hmatch⟩ := find?_opcodeMap_eq_some_iff.mp hfind
      exact ⟨row, hmem, hmatch, (Except.ok.inj h).symm⟩
    next => exact nofun
  · rintro ⟨row, hmem, hmatch, rfl⟩
    rw [find?_opcodeMap_eq_some_iff.mpr ⟨hmem, hmatch⟩]

/-- A word is illegal exactly when no row of the map matches it; the reason is read off its opcode. -/
theorem decode_eq_error_iff {C : BitVec 16} {e : DecodeError} :
    decode C = .error e ↔ (¬ ∃ row ∈ opcodeMap, Matches row C) ∧
      e = if opcode C ∈ reservedOpcodes then .reservedOpcode else .reservedBit := by
  by_cases hmatch : ∃ row ∈ opcodeMap, Matches row C
  · obtain ⟨row, hmem, hrow⟩ := id hmatch
    have hok : decode C = .ok (row.build C) := decode_eq_ok_iff.mpr ⟨row, hmem, hrow, rfl⟩
    simp [hok, hmatch]
  · have hnone : opcodeMap.find? (fun row => C &&& row.mask == row.pattern) = none := by
      rw [Option.eq_none_iff_forall_ne_some]
      exact fun row hrow => hmatch ⟨row, find?_opcodeMap_eq_some_iff.mp hrow⟩
    simp [decode, hnone, hmatch, eq_comm]

/-- Settles O2: each conjunct names the one row of the map that builds its command. -/
theorem opcodeMapIsTheTable : Obligations.OpcodeMapIsTheTable := by
  unfold Obligations.OpcodeMapIsTheTable
  intro C
  simp [decode_eq_ok_iff, opcodeMap, Matches]

/-! ## The opcode and the reserved bits -/

/-- Two concatenations of the same widths are equal part by part. -/
theorem append_inj_iff {n m : Nat} {x x' : BitVec n} {y y' : BitVec m} :
    x ++ y = x' ++ y' ↔ x = x' ∧ y = y' := by
  constructor
  · intro h
    have hleft := congrArg (BitVec.extractLsb' m n) h
    have hright := congrArg (BitVec.extractLsb' 0 m) h
    rw [BitVec.extractLsb'_append_eq_left, BitVec.extractLsb'_append_eq_left] at hleft
    rw [BitVec.extractLsb'_append_eq_right, BitVec.extractLsb'_append_eq_right] at hright
    exact ⟨hleft, hright⟩
  · rintro ⟨rfl, rfl⟩; rfl

/-- The operand bits `C[10:0]` of a command word. -/
def operandBits (C : BitVec 16) : BitVec 11 := C.extractLsb' 0 11

theorem opcode_append_operandBits (C : BitVec 16) : opcode C ++ operandBits C = C :=
  BitVec.extractLsb'_append_extractLsb' (w := 5) (len := 11)

/-- A format reserves no bit of the opcode. -/
theorem reservedBits_eq (op : BitVec 5) : reservedBits op = 0#5 ++ operandBits (reservedBits op) := by
  revert op; decide

/-- A row's mask covers the opcode and every reserved bit of the format, and its match value has its opcode and zeros (R45). -/
theorem opcodeMap_row_eq : ∀ row ∈ opcodeMap, row.pattern = opcode row.pattern ++ 0#11 ∧
    row.mask = BitVec.allOnes 5 ++ operandBits (reservedBits (opcode row.pattern)) := by decide

/-- An opcode has a row in the map exactly when it is none of the ten reserved ones (R47). -/
theorem opcode_assigned_iff (op : BitVec 5) :
    (∃ row ∈ opcodeMap, opcode row.pattern = op) ↔ op ∉ reservedOpcodes := by
  revert op; decide

/-- Zeros in the reserved bits are a matter of the operand bits alone. -/
theorem and_reservedBits_eq_zero_iff (C : BitVec 16) (op : BitVec 5) :
    C &&& reservedBits op = 0 ↔ operandBits C &&& operandBits (reservedBits op) = 0 := by
  have hand : C &&& reservedBits op = 0#5 ++ (operandBits C &&& operandBits (reservedBits op)) := by
    calc C &&& reservedBits op
      _ = (opcode C ++ operandBits C) &&& (0#5 ++ operandBits (reservedBits op)) := by
        rw [opcode_append_operandBits, ← reservedBits_eq]
      _ = 0#5 ++ (operandBits C &&& operandBits (reservedBits op)) := by rw [BitVec.and_append, BitVec.and_zero]
  rw [hand, show (0 : BitVec 16) = 0#5 ++ 0#11 from rfl, append_inj_iff]
  exact and_iff_right rfl

/-- A row matches the words that have its opcode and zeros in the bits its format reserves. -/
theorem matches_iff {row : OpcodeRow} (hrow : row ∈ opcodeMap) (C : BitVec 16) :
    Matches row C ↔ opcode row.pattern = opcode C ∧ C &&& reservedBits (opcode C) = 0 := by
  obtain ⟨hpattern, hmask⟩ := opcodeMap_row_eq row hrow
  generalize opcode row.pattern = op at hpattern hmask
  have hand : C &&& row.mask = opcode C ++ (operandBits C &&& operandBits (reservedBits op)) := by
    calc C &&& row.mask
      _ = (opcode C ++ operandBits C) &&& (BitVec.allOnes 5 ++ operandBits (reservedBits op)) := by
        rw [opcode_append_operandBits, hmask]
      _ = opcode C ++ (operandBits C &&& operandBits (reservedBits op)) := by rw [BitVec.and_append, BitVec.and_allOnes]
  rw [Matches, hand, hpattern, append_inj_iff, and_reservedBits_eq_zero_iff]
  constructor
  · rintro ⟨rfl, h⟩; exact ⟨rfl, h⟩
  · rintro ⟨rfl, h⟩; exact ⟨rfl, h⟩

/-- Which words are one of the 22 commands (R46, R47). -/
theorem exists_matches_iff (C : BitVec 16) :
    (∃ row ∈ opcodeMap, Matches row C) ↔ opcode C ∉ reservedOpcodes ∧ C &&& reservedBits (opcode C) = 0 := by
  rw [← opcode_assigned_iff]
  constructor
  · rintro ⟨row, hmem, hmatch⟩
    obtain ⟨hop, hzero⟩ := (matches_iff hmem C).mp hmatch
    exact ⟨⟨row, hmem, hop⟩, hzero⟩
  · rintro ⟨⟨row, hmem, hop⟩, hzero⟩
    exact ⟨row, hmem, (matches_iff hmem C).mpr ⟨hop, hzero⟩⟩

/-- An illegal word and the reason for it (R47). -/
theorem decode_eq_error_iff_opcode {C : BitVec 16} {e : DecodeError} :
    decode C = .error e ↔
      (opcode C ∈ reservedOpcodes ∧ e = .reservedOpcode) ∨
      (opcode C ∉ reservedOpcodes ∧ C &&& reservedBits (opcode C) ≠ 0 ∧ e = .reservedBit) := by
  rw [decode_eq_error_iff, exists_matches_iff]
  by_cases hop : opcode C ∈ reservedOpcodes <;> simp [hop]

/-- A command event whose word is illegal fails with code 3 and changes nothing else (R47, R107). -/
theorem step_of_decode_error {s : State} {C : BitVec 16} {d : Word} {rest : List PortEvent} {e : DecodeError}
    (hin : s.inbox = .command C d :: rest) (hdec : decode C = .error e) :
    step s = .next (failed 3 (accepted d rest s)) := by
  rw [← stepWith_default, stepWith_of_command hin, runCommand_of_decode_error hdec]
  rfl

/-- A set of words that are all illegal, as the statements about the single commands use it. -/
theorem illegalWords_of_decode {bad : BitVec 16 → Prop} (h : ∀ C, bad C → ∃ e, decode C = .error e) :
    IllegalWords bad := by
  intro C d rest s hin hbad
  obtain ⟨e, hdec⟩ := h C hbad
  exact step_of_decode_error hin hdec

/-- Settles O3, by the decoder's two reasons and the step on an illegal word. -/
theorem illegalWordsFail : Obligations.IllegalWordsFail := by
  unfold Obligations.IllegalWordsFail
  exact ⟨fun _ _ => decode_eq_error_iff_opcode, illegalWords_of_decode fun _ h => h, by decide, by decide⟩

/-! ## Encoding -/

section
variable {n m k : Nat} (x : BitVec n) (y : BitVec m) (z : BitVec k)

/-- Of a word with one field, the mask of its format keeps all but the field. -/
theorem append_and_mask : (x ++ y) &&& (BitVec.allOnes n ++ 0#m) = x ++ 0#m := by
  rw [BitVec.and_append, BitVec.and_allOnes, BitVec.and_zero]

/-- Of a word with two fields, the mask of its format keeps all but the fields. -/
theorem append_append_and_mask :
    (x ++ y ++ z) &&& (BitVec.allOnes n ++ 0#m ++ 0#k) = x ++ 0#m ++ 0#k := by
  rw [BitVec.and_append, append_and_mask, BitVec.and_zero]

/-- The last field of a word is its low bits. -/
theorem eq_lastField : y = (x ++ y).extractLsb' 0 m := BitVec.extractLsb'_append_eq_right.symm

/-- The first of two fields starts where the second ends. -/
theorem eq_firstField : y = (x ++ y ++ z).extractLsb' k m := by
  rw [BitVec.extractLsb'_append_eq_of_le (Nat.le_refl k), Nat.sub_self, ← eq_lastField]

end

/-- A word that row `n` of the map matches and builds `i` from decodes to `i`. -/
theorem decode_of_row (n : Fin 22) {C : BitVec 16} {i : Instr} (hmatch : Matches opcodeMap[n.val] C)
    (hbuild : i = opcodeMap[n.val].build C) : decode C = .ok i :=
  decode_eq_ok_iff.mpr ⟨opcodeMap[n.val], List.getElem_mem _, hmatch, hbuild⟩

/-- Decoding undoes encoding: the word of a command has the match value of its row, and the operands in their fields. -/
theorem decode_encode (i : Instr) : decode (encode i) = .ok i := by
  cases i with
  | nop | rdst | clre | encr | decr | encb | decb => rfl
  | wrkb a => exact decode_of_row 3 (append_and_mask _ a) (congrArg Instr.wrkb (eq_lastField _ a))
  | rdkb a => exact decode_of_row 4 (append_and_mask _ a) (congrArg Instr.rdkb (eq_lastField _ a))
  | wrbb a => exact decode_of_row 5 (append_and_mask _ a) (congrArg Instr.wrbb (eq_lastField _ a))
  | rdbb a => exact decode_of_row 6 (append_and_mask _ a) (congrArg Instr.rdbb (eq_lastField _ a))
  | wrx j => exact decode_of_row 7 (append_and_mask _ j) (congrArg Instr.wrx (eq_lastField _ j))
  | rdx j => exact decode_of_row 8 (append_and_mask _ j) (congrArg Instr.rdx (eq_lastField _ j))
  | wrrk k => exact decode_of_row 9 (append_and_mask _ k) (congrArg Instr.wrrk (eq_lastField _ k))
  | rdrk k => exact decode_of_row 10 (append_and_mask _ k) (congrArg Instr.rdrk (eq_lastField _ k))
  | ldrk i => exact decode_of_row 11 (append_and_mask _ i) (congrArg Instr.ldrk (eq_lastField _ i))
  | b2w j => exact decode_of_row 13 (append_and_mask _ j) (congrArg Instr.b2w (eq_lastField _ j))
  | w2b j => exact decode_of_row 14 (append_and_mask _ j) (congrArg Instr.w2b (eq_lastField _ j))
  | rdsk i k =>
    exact decode_of_row 12 (append_append_and_mask _ i k) (congrArg₂ Instr.rdsk (eq_firstField _ i k) (eq_lastField _ k))
  | rol j r =>
    exact decode_of_row 15 (append_append_and_mask _ j r) (congrArg₂ Instr.rol (eq_firstField _ j r) (eq_lastField _ r))
  | ror j r =>
    exact decode_of_row 16 (append_append_and_mask _ j r) (congrArg₂ Instr.ror (eq_firstField _ j r) (eq_lastField _ r))
  | ksched klen dir =>
    exact decode_of_row 17 (append_append_and_mask _ dir klen)
      (congrArg₂ Instr.ksched (eq_lastField _ klen) (eq_firstField _ dir klen))

end Sys2Proof.Machine
end

section
/-! PROOFS. What a command does with its data operand, and what it returns (`30_encoding.md` section 1). `execWith_presented`
says once that a command looks at neither the rest of the inbox nor, but for the four write commands, the data operand;
`exec_completes` says which command may return data. Statements O50 and O51. -/

namespace Sys2Proof.Machine

/-! ## A command and what the host presents -/

/-- The state with another data operand sampled and other events still to come. -/
def State.presented (d : Word) (rest : List PortEvent) (s : State) : State := { s with wdata := d, inbox := rest }

/-- `f` applied to the next state, where there is one. -/
def mapNext (f : State → State) : Outcome → Outcome
  | .next s => .next (f s)
  | .fault e => .fault e
  | .refused e => .refused e

/-- What the data operands `d` and `d'` have in common when the command `i` cannot tell them apart (R42). -/
def SameOperand (d d' : Word) : Instr → Prop
  | .wrkb _ | .wrbb _ => d.extractLsb' 0 8 = d'.extractLsb' 0 8
  | .wrx _ | .wrrk _ => d = d'
  | _ => True

section
variable (d : Word) (rest : List PortEvent) (s : State)

@[simp] theorem State.presented_status : (s.presented d rest).status = s.status := rfl
@[simp] theorem State.presented_wdata : (s.presented d rest).wdata = d := rfl
@[simp] theorem keyBytes_presented (L : KeyLength) : keyBytes L (s.presented d rest) = keyBytes L s := rfl

/-- `KSCHED` reads `KEYB` and `STATUS` alone. -/
theorem kschedWith_presented (delta : Vector Word 8) (klen : BitVec 6) (dir : BitVec 2) :
    kschedWith delta klen dir (s.presented d rest) = mapNext (State.presented d rest) (kschedWith delta klen dir s) := by
  simp only [kschedWith, keyBytes_presented]
  split
  · rfl
  · split <;> rfl

/-- A command commutes with any change of the events to come and of the data operand that it cannot see. -/
theorem execWith_presented (delta : Vector Word 8) {i : Instr} (h : SameOperand d s.wdata i) :
    execWith delta i (s.presented d rest) = mapNext (State.presented d rest) (execWith delta i s) := by
  cases i with
  | nop | rdst | clre | rdkb | rdbb | rdx | b2w | w2b | rol | ror | encr | decr => rfl
  | wrkb a =>
    have hbyte : d.extractLsb' 0 8 = s.wdata.extractLsb' 0 8 := h
    simp only [execWith, exec, execWrkb, State.presented_wdata, hbyte]
    rfl
  | wrbb a =>
    have hbyte : d.extractLsb' 0 8 = s.wdata.extractLsb' 0 8 := h
    simp only [execWith, exec, execWrbb, State.presented_wdata, hbyte]
    rfl
  | wrx j =>
    have hword : d = s.wdata := h
    rw [hword]; rfl
  | wrrk k =>
    have hword : d = s.wdata := h
    rw [hword]
    simp only [execWith, exec, execWrrk]
    split <;> rfl
  | rdrk k =>
    simp only [execWith, exec, execRdrk]
    split <;> rfl
  | ldrk row =>
    simp only [execWith, exec, execLdrk, State.presented_status, apply_ite (mapNext _)]
    cases scheduleRow s.status row <;> rfl
  | rdsk row k =>
    simp only [execWith, exec, execRdsk, State.presented_status, apply_ite (mapNext _)]
    cases scheduleRow s.status row <;> cases roundKeyIndex k <;> rfl
  | ksched klen dir => exact kschedWith_presented d rest s delta klen dir
  | encb =>
    simp only [execWith, exec, execEncb, State.presented_status, apply_ite (mapNext _)]
    rfl
  | decb =>
    simp only [execWith, exec, execDecb, State.presented_status, apply_ite (mapNext _)]
    rfl

end

/-- Every command answers a next state with a response, and leaves what the host presents as it was (R123). -/
theorem execWith_next (delta : Vector Word 8) (i : Instr) (s : State) :
    ∃ t r, execWith delta i s = .next t ∧ t.rsp = some r ∧ t.inbox = s.inbox ∧ t.wdata = s.wdata := by
  rcases execWith_cases delta i s with ⟨code, hfail, -⟩ | ⟨u, d, hok, hinbox, hwdata⟩
  · exact ⟨_, _, hfail, rfl, rfl, rfl⟩
  · exact ⟨_, _, hok, rfl, hinbox, hwdata⟩

/-- The premise of O50 in the words of R42. -/
theorem sameOperand_of_ignored {i : Instr} {d d' : Word}
    (h : (∀ a, i ≠ .wrkb a) ∧ (∀ a, i ≠ .wrbb a) ∧ (∀ j, i ≠ .wrx j) ∧ (∀ k, i ≠ .wrrk k) ∨
      ((∃ a, i = .wrkb a) ∨ ∃ a, i = .wrbb a) ∧ d.extractLsb' 0 8 = d'.extractLsb' 0 8) : SameOperand d d' i := by
  rcases h with ⟨hwrkb, hwrbb, hwrx, hwrrk⟩ | ⟨⟨a, rfl⟩ | ⟨a, rfl⟩, hbyte⟩
  · cases i with
    | wrkb a => exact absurd rfl (hwrkb a)
    | wrbb a => exact absurd rfl (hwrbb a)
    | wrx j => exact absurd rfl (hwrx j)
    | wrrk k => exact absurd rfl (hwrrk k)
    | _ => trivial
  · exact hbyte
  · exact hbyte

/-- Settles O50: `execWith_presented` with the events to come as they are. -/
theorem dataOperandIgnored : Obligations.DataOperandIgnored := by
  unfold Obligations.DataOperandIgnored
  intro i s t d ht h
  obtain ⟨t', -, hnext, -, hinbox, -⟩ := execWith_next Config.delta i s
  rw [execWith_default, ht] at hnext
  obtain rfl := Host.Outcome.next.inj hnext
  calc exec i { s with wdata := d }
    _ = execWith Config.delta i (s.presented d s.inbox) := (execWith_default ..).symm
    _ = mapNext (State.presented d s.inbox) (exec i s) := by
      rw [execWith_presented d s.inbox s Config.delta (sameOperand_of_ignored h), execWith_default]
    _ = .next { t with wdata := d } := by rw [ht, ← hinbox]; rfl

/-! ## Which commands return data -/

/-- The six read commands (R42). -/
def IsRead (i : Instr) : Prop :=
  i = .rdst ∨ (∃ a, i = .rdkb a) ∨ (∃ a, i = .rdbb a) ∨ (∃ j, i = .rdx j) ∨ (∃ k, i = .rdrk k) ∨ ∃ row k, i = .rdsk row k

/-- The three ways the command `i` can end in `s`, by what it returns (R10): an error, no data, or a read's data with no
state changed. -/
inductive Completes (i : Instr) (s : State) : Outcome → Prop
  | error (code : ErrorCode) : Completes i s (raiseErr code s)
  | noData (u : State) : Completes i s (done u)
  | data (d : Word) (hi : IsRead i) : Completes i s (reply d s)

/-- Every command completes in one of the three ways. -/
theorem exec_completes (i : Instr) (s : State) : Completes i s (exec i s) := by
  cases i with
  | nop | clre | wrkb | wrbb | wrx | b2w | w2b | rol | ror | encr | decr => exact .noData _
  | rdst => exact .data _ (.inl rfl)
  | rdkb a => exact .data _ (.inr (.inl ⟨a, rfl⟩))
  | rdbb a => exact .data _ (.inr (.inr (.inl ⟨a, rfl⟩)))
  | rdx j => exact .data _ (.inr (.inr (.inr (.inl ⟨j, rfl⟩))))
  | rdrk k =>
    simp only [exec, execRdrk]
    split
    · exact .error _
    · exact .data _ (.inr (.inr (.inr (.inr (.inl ⟨k, rfl⟩)))))
  | rdsk row k =>
    simp only [exec, execRdsk]
    split
    · split
      · exact .data _ (.inr (.inr (.inr (.inr (.inr ⟨row, k, rfl⟩)))))
      · exact .error _
    · exact .error _
  | wrrk k =>
    simp only [exec, execWrrk]
    split
    · exact .error _
    · exact .noData _
  | ldrk row =>
    simp only [exec, execLdrk]
    split
    · split
      · exact .error _
      · exact .noData _
    · exact .error _
  | ksched klen dir =>
    simp only [exec, execKsched, kschedWith]
    split
    · exact .error _
    · split
      · exact .error _
      · exact .noData _
  | encb =>
    simp only [exec, execEncb]
    split
    · split
      · exact .error _
      · exact .noData _
    · exact .error _
  | decb =>
    simp only [exec, execDecb]
    split
    · split
      · exact .noData _
      · exact .error _
    · exact .error _

/-- Settles O51, by the three ways a command completes. -/
theorem onlyReadsReturnData : Obligations.OnlyReadsReturnData := by
  unfold Obligations.OnlyReadsReturnData
  intro i s t ht
  have hends := exec_completes i s
  generalize exec i s = o at ht hends
  cases hends with
  | error code =>
    cases ht
    exact ⟨⟨code.code, 0⟩, rfl, absurd rfl⟩
  | noData u =>
    cases ht
    exact ⟨⟨0, 0⟩, rfl, absurd rfl⟩
  | data d hi =>
    cases ht
    exact ⟨⟨0, d⟩, rfl, fun _ => ⟨rfl, rfl, hi⟩⟩

end Sys2Proof.Machine
end

section
/-! PROOFS. The host port clock by clock (`30_encoding.md` R41, `70_reset_and_hazards.md` R117, R123, R124). A busy block only
counts down to its response (`portRun_busy`), which gives O56; and every rising edge does what one step, or none, does on
the event it takes (`portEdge_simulates`), which gives O57 by induction on the run of cycles. -/

namespace Sys2Proof.Machine

/-- An accepted command word answers a next state with a response, legal or not, and leaves the events to come (R123). -/
theorem runCommand_next (delta : Vector Word 8) (C : BitVec 16) (d : Word) (s : State) :
    ∃ t r, runCommand delta C d s = .next t ∧ t.rsp = some r ∧ t.inbox = s.inbox := by
  cases hdec : decode C with
  | error e => exact ⟨_, _, runCommand_of_decode_error hdec delta d s, rfl, rfl⟩
  | ok i =>
    obtain ⟨t, r, hnext, hrsp, hinbox, -⟩ := execWith_next delta i (s.accept d)
    exact ⟨t, r, (runCommand_of_decode_ok hdec delta d s).trans hnext, hrsp, hinbox⟩

/-- An accepted command word does the same whatever events are still to come. -/
theorem runCommand_inbox {delta : Vector Word 8} {C : BitVec 16} {d : Word} {s t : State}
    (h : runCommand delta C d s = .next t) (rest : List PortEvent) :
    runCommand delta C d { s with inbox := rest } = .next { t with inbox := rest } := by
  cases hdec : decode C with
  | error e =>
    rw [runCommand_of_decode_error hdec] at h ⊢
    cases h; rfl
  | ok i =>
    rw [runCommand_of_decode_ok hdec] at h ⊢
    obtain ⟨t', -, hnext, -, -, hwdata⟩ := execWith_next delta i (s.accept d)
    obtain rfl := Host.Outcome.next.inj (h.symm.trans hnext)
    have hsame : SameOperand d (s.accept d).wdata i := by cases i <;> trivial
    calc execWith delta i (({ s with inbox := rest } : State).accept d)
      _ = mapNext (State.presented d rest) (execWith delta i (s.accept d)) :=
        execWith_presented d rest (s.accept d) delta hsame
      _ = .next { t with wdata := d, inbox := rest } := by rw [h]; rfl
      _ = .next { t with inbox := rest } := by rw [show d = t.wdata from hwdata.symm]

/-! ## The latency -/

/-- The block `n` cycles on with a command in flight that had `left` cycles left: still in flight, or answered. -/
def counted (left n : Nat) (t : State) (r : Response) : PortState :=
  ⟨t, if n ≤ left then some ⟨left - n, r⟩ else none⟩

/-- A busy block under inputs with `rst = 0` counts its cycles down, and is idle in the cycle after the response (R41). -/
theorem portRun_busy (delta : Vector Word 8) (t : State) (r : Response) (ins : List PortIn)
    (hrst : ∀ x ∈ ins, x.rst = false) (left : Nat) (hlen : ins.length ≤ left + 1) :
    portRun delta ⟨t, some ⟨left, r⟩⟩ ins = .next (counted left ins.length t r) := by
  induction ins generalizing left with
  | nil => rfl
  | cons inp ins ih =>
    obtain ⟨hinp, hins⟩ := List.forall_mem_cons.mp hrst
    cases left with
    | zero =>
      obtain rfl : ins = [] := List.length_eq_zero_iff.mp (by simpa using hlen)
      simp [portRun, portEdge, hinp, counted]
    | succ left =>
      have hrun := ih hins left (by simpa using hlen)
      simp [portRun, portEdge, hinp, hrun, counted]

/-- What a block shows that counts down: busy, the response in the cycle with none left, then ready (R41). -/
theorem portOut_counted {left n : Nat} (t : State) (r : Response) {inp : PortIn} (hinp : inp.rst = false) :
    portOut (counted left n t r) inp =
      if n < left then ⟨false, none⟩ else if n = left then ⟨false, some r⟩ else ⟨true, none⟩ := by
  rcases lt_trichotomy n left with hbefore | rfl | hafter
  · have hleft : left - n ≠ 0 := by omega
    simp [portOut, counted, hinp, hbefore, hbefore.le, hleft]
  · simp [portOut, counted, hinp]
  · simp [portOut, counted, hinp, hafter.not_ge, hafter.not_gt, hafter.ne']

/-- The edge at which an idle block takes a command: its effect, and its response in flight (R41; log entry 6). -/
theorem portEdge_accept {delta : Vector Word 8} {p : PortState} {C : BitVec 16} {d : Word} {t : State} {r : Response}
    (hidle : p.inFlight = none) (hrun : runCommand delta C d p.core = .next t) (hrsp : t.rsp = some r) :
    portEdge delta p ⟨false, true, C, d⟩ = .next ⟨t, some ⟨latencyOf C p.core.status r - 1, r⟩⟩ := by
  simp [portEdge, hidle, acceptCommand, hrun, hrsp]

/-- Settles O56: the edge that accepts the command, then the count of the cycles after it. -/
theorem responseFollowsByLatency : Obligations.ResponseFollowsByLatency := by
  unfold Obligations.ResponseFollowsByLatency
  intro delta p C d ins inp hidle hrst hinp
  obtain ⟨t, r, hrun, hrsp, -⟩ := runCommand_next delta C d p.core
  obtain ⟨left, hlatency⟩ : ∃ left, latencyOf C p.core.status r = left + 1 := ⟨_, rfl⟩
  have hedge := portEdge_accept hidle hrun hrsp
  rw [hlatency, Nat.add_sub_cancel] at hedge
  refine ⟨t, r, left + 1, hrun, hrsp, hlatency.symm, by omega, fun hlen => ⟨counted left ins.length t r, ?run, ?out⟩⟩
  case run =>
    simp only [portRun, hedge]
    exact portRun_busy delta t r ins hrst left hlen
  case out =>
    simpa only [Nat.add_lt_add_iff_right, Nat.add_right_cancel_iff] using portOut_counted t r hinp

/-! ## Refinement -/

/-- What a rising edge does, at command level: nothing where it takes no event, and one step on the event it takes. The
host's own events in the block's state stay. -/
theorem portEdge_simulates (delta : Vector Word 8) (p : PortState) (inp : PortIn) :
    ∃ q, portEdge delta p inp = .next q ∧ q.core.inbox = p.core.inbox ∧
      ((edgeEvent p inp = [] ∧ q.core = p.core) ∨
        ∃ event, edgeEvent p inp = [event] ∧
          ∀ rest, stepWith delta { p.core with inbox := event :: rest } = .next { q.core with inbox := rest }) := by
  obtain ⟨rst, valid, C, d⟩ := inp
  obtain ⟨core, inFlight⟩ := p
  cases rst with
  | true => exact ⟨_, rfl, rfl, .inr ⟨.reset, rfl, fun rest => rfl⟩⟩
  | false =>
    cases inFlight with
    | some f => exact ⟨_, rfl, rfl, .inl ⟨by simp [edgeEvent, portOut], rfl⟩⟩
    | none =>
      cases valid with
      | false => exact ⟨_, rfl, rfl, .inl ⟨rfl, rfl⟩⟩
      | true =>
        obtain ⟨t, r, hrun, hrsp, hinbox⟩ := runCommand_next delta C d core
        exact ⟨_, portEdge_accept rfl hrun hrsp, hinbox, .inr ⟨.command C d, rfl, runCommand_inbox hrun⟩⟩

/-- Settles O57, by induction on the run of cycles. -/
theorem portRefinesTheCommandLevel : Obligations.PortRefinesTheCommandLevel := by
  unfold Obligations.PortRefinesTheCommandLevel
  intro delta p ins
  induction ins generalizing p with
  | nil => exact ⟨p, _, rfl, rfl, rfl⟩
  | cons inp ins ih =>
    obtain ⟨p', hedge, hinbox, hsim⟩ := portEdge_simulates delta p inp
    obtain ⟨q, t, hrun, hsteps, hcore⟩ := ih p'
    rw [hinbox] at hcore
    have hevents : portEvents delta p (inp :: ins) = edgeEvent p inp ++ portEvents delta p' ins := by
      simp only [portEvents, hedge]
    refine ⟨q, t, by simpa only [portRun, hedge] using hrun, ?_, hcore⟩
    rw [hevents]
    rcases hsim with ⟨hnone, hsame⟩ | ⟨event, hone, hstep⟩
    · rw [hnone, ← hsame]
      exact hsteps
    · rw [hone, List.singleton_append, List.length_cons]
      simp only [Host.Core.run, coreWith, hstep]
      exact hsteps

end Sys2Proof.Machine
end

section
/-! PROOFS. The assembler (`30_encoding.md` R49, R50). The word of a command is a sum of its match value and its operands in their
places (`encode_eq_ofNat`); one lemma per form of line says what every line of that form assembles to, and O60 and O59
are these lemmas at the 27 mnemonics. -/

namespace Sys2Proof.Machine

/-! ## The word of a command as a number -/

/-- The match value of R45 plus each operand times the weight of its field's lowest bit (R43). -/
def wordValue : Instr → Nat
  | .nop => 0x0000
  | .rdst => 0x0800
  | .clre => 0x1000
  | .wrkb a => 0x2000 + a.toNat
  | .rdkb a => 0x2800 + a.toNat
  | .wrbb a => 0x3000 + a.toNat
  | .rdbb a => 0x3800 + a.toNat
  | .wrx j => 0x4000 + j.toNat
  | .rdx j => 0x4800 + j.toNat
  | .wrrk k => 0x5000 + k.toNat
  | .rdrk k => 0x5800 + k.toNat
  | .ldrk i => 0x6000 + i.toNat
  | .rdsk i k => 0x6800 + 8 * i.toNat + k.toNat
  | .b2w j => 0x8000 + j.toNat
  | .w2b j => 0x8800 + j.toNat
  | .rol j r => 0x9000 + 256 * j.toNat + r.toNat
  | .ror j r => 0x9800 + 256 * j.toNat + r.toNat
  | .ksched klen dir => 0xA000 + klen.toNat + 64 * dir.toNat
  | .encr => 0xB000
  | .decr => 0xB800
  | .encb => 0xC000
  | .decb => 0xC800

/-- A concatenation as a sum. -/
theorem toNat_append_eq_add {n m : Nat} (x : BitVec n) (y : BitVec m) :
    (x ++ y).toNat = 2 ^ m * x.toNat + y.toNat := by
  rw [BitVec.toNat_append, ← Nat.shiftLeft_add_eq_or_of_lt y.isLt, Nat.shiftLeft_eq, Nat.mul_comm]

/-- The encoder lays the fields out as the table's arithmetic does. -/
theorem toNat_encode (i : Instr) : (encode i).toNat = wordValue i := by
  cases i with
  | nop | rdst | clre | encr | decr | encb | decb => rfl
  | _ =>
    simp only [encode, wordValue, toNat_append_eq_add, BitVec.toNat_ofNat]
    omega

/-- The encoder, read as a number of 16 bits. -/
theorem encode_eq_ofNat (i : Instr) : encode i = BitVec.ofNat 16 (wordValue i) := by
  rw [← toNat_encode, BitVec.ofNat_toNat, BitVec.setWidth_eq]

/-! ## One lemma per form of line

Each takes the commands of the line, as a function of its operands; the facts that tie the mnemonic's form to them hold by
computation, and are filled in where the lemma is used. -/

section
variable {m : Mnemonic} {w w' base unit unit' bound bound' : Nat}

/-- A line without operands, of the commands `is`. -/
theorem assemble_none (is : List Instr) {words : List (BitVec 16)} (ops : List Nat) (data : Option Nat)
    (hexp : ∀ data, expandLine ⟨m, [], data⟩ = is := by intros; rfl)
    (hwidths : m.operandWidths = [] := by rfl) (hdata : m.takesData = false := by rfl)
    (hwords : is.map encode = words := by rfl) :
    assemble ⟨m, ops, data⟩ = lineOfNone words ops data := by
  subst hwords
  match ops, data with
  | [], none => simp [assemble, AsmLine.wellFormed, hwidths, hdata, hexp, operandsFit, dataFits, lineOfNone]
  | [], some v => simp [assemble, AsmLine.wellFormed, hdata, dataFits, lineOfNone]
  | _ :: _, _ => simp [assemble, AsmLine.wellFormed, hwidths, operandsFit, lineOfNone]

/-- A line with one operand, in a field of `w` bits at the place of weight `unit`. -/
theorem assemble_one (f : BitVec w → Instr) (ops : List Nat) (data : Option Nat)
    (hexp : ∀ a data, expandLine ⟨m, [a], data⟩ = [f (BitVec.ofNat w a)] := by intros; rfl)
    (hwidths : m.operandWidths = [w] := by rfl) (hdata : m.takesData = false := by rfl)
    (hword : ∀ x, wordValue (f x) = base + unit * x.toNat := by simp [wordValue]) (hbound : 2 ^ w = bound := by rfl) :
    assemble ⟨m, ops, data⟩ = lineOfOne base unit bound ops data := by
  subst hbound
  match ops, data with
  | [a], none =>
    by_cases ha : a < 2 ^ w
    · simp [assemble, AsmLine.wellFormed, hwidths, hdata, hexp, operandsFit, dataFits, lineOfOne, ha,
        encode_eq_ofNat, hword, Nat.mod_eq_of_lt]
    · simp [assemble, AsmLine.wellFormed, hwidths, operandsFit, lineOfOne, ha]
  | [a], some v => simp [assemble, AsmLine.wellFormed, hdata, dataFits, lineOfOne]
  | [], _ => simp [assemble, AsmLine.wellFormed, hwidths, operandsFit, lineOfOne]
  | _ :: _ :: _, _ => simp [assemble, AsmLine.wellFormed, hwidths, operandsFit, lineOfOne]

/-- A write line: one operand, in a field of `w` bits at the end of the word, and the data operand. -/
theorem assemble_write (f : BitVec w → Instr) (ops : List Nat) (data : Option Nat)
    (hexp : ∀ a data, expandLine ⟨m, [a], data⟩ = [f (BitVec.ofNat w a)] := by intros; rfl)
    (hwidths : m.operandWidths = [w] := by rfl) (hdata : m.takesData = true := by rfl)
    (hword : ∀ x, wordValue (f x) = base + x.toNat := by intro; rfl) (hbound : 2 ^ w = bound := by rfl) :
    assemble ⟨m, ops, data⟩ = lineOfWrite base bound ops data := by
  subst hbound
  match ops, data with
  | [a], some v =>
    by_cases ha : a < 2 ^ w
    · by_cases hv : v < 4294967296
      · simp [assemble, AsmLine.wellFormed, hwidths, hdata, hexp, operandsFit, dataFits, lineOfWrite, ha, hv,
          encode_eq_ofNat, hword, Nat.mod_eq_of_lt]
      · simp [assemble, AsmLine.wellFormed, hdata, dataFits, lineOfWrite, hv]
    · simp [assemble, AsmLine.wellFormed, hwidths, operandsFit, lineOfWrite, ha]
  | [a], none => simp [assemble, AsmLine.wellFormed, hdata, dataFits, lineOfWrite]
  | [], _ => simp [assemble, AsmLine.wellFormed, hwidths, operandsFit, lineOfWrite]
  | _ :: _ :: _, _ => simp [assemble, AsmLine.wellFormed, hwidths, operandsFit, lineOfWrite]

/-- A line with two operands, in fields of `w` and `w'` bits at the places of weight `unit` and `unit'`. -/
theorem assemble_two (f : BitVec w → BitVec w' → Instr) (ops : List Nat) (data : Option Nat)
    (hexp : ∀ a b data, expandLine ⟨m, [a, b], data⟩ = [f (BitVec.ofNat w a) (BitVec.ofNat w' b)] := by intros; rfl)
    (hwidths : m.operandWidths = [w, w'] := by rfl) (hdata : m.takesData = false := by rfl)
    (hword : ∀ x y, wordValue (f x y) = base + unit * x.toNat + unit' * y.toNat := by simp [wordValue])
    (hbound : 2 ^ w = bound := by rfl) (hbound' : 2 ^ w' = bound' := by rfl) :
    assemble ⟨m, ops, data⟩ = lineOfTwo base unit bound unit' bound' ops data := by
  subst hbound hbound'
  match ops, data with
  | [a, b], none =>
    by_cases hfit : a < 2 ^ w ∧ b < 2 ^ w'
    · simp [assemble, AsmLine.wellFormed, hwidths, hdata, hexp, operandsFit, dataFits, lineOfTwo, hfit,
        encode_eq_ofNat, hword, Nat.mod_eq_of_lt]
    · simp [assemble, AsmLine.wellFormed, hwidths, operandsFit, lineOfTwo, hfit]
  | [a, b], some v => simp [assemble, AsmLine.wellFormed, hdata, dataFits, lineOfTwo]
  | [], _ => simp [assemble, AsmLine.wellFormed, hwidths, operandsFit, lineOfTwo]
  | [_], _ => simp [assemble, AsmLine.wellFormed, hwidths, operandsFit, lineOfTwo]
  | _ :: _ :: _ :: _, _ => simp [assemble, AsmLine.wellFormed, hwidths, operandsFit, lineOfTwo]

end

/-! ## Accepted lines -/

/-- The operands that fit are as many as the form has. -/
theorem length_of_operandsFit : ∀ {ops widths : List Nat}, operandsFit ops widths = true → ops.length = widths.length
  | [], [], _ => rfl
  | _ :: _, _ :: _, h => by
    simp only [operandsFit, Bool.and_eq_true] at h
    exact congrArg Nat.succ (length_of_operandsFit h.2)

/-- A line with as many operands as its form has stands for at least one command. -/
theorem expandLine_ne_nil {m : Mnemonic} {ops : List Nat} (h : ops.length = m.operandWidths.length)
    (data : Option Nat) : expandLine ⟨m, ops, data⟩ ≠ [] := by
  cases m with
  | nop | rdst | clre | encr | decr | encb | decb | b2wAll | w2bAll =>
    obtain rfl := List.length_eq_zero_iff.mp h
    exact List.cons_ne_nil _ _
  | rdsk | rol | ror | ksched =>
    obtain ⟨a, b, rfl⟩ := List.length_eq_two.mp h
    exact List.cons_ne_nil _ _
  | _ =>
    obtain ⟨a, rfl⟩ := List.length_eq_one_iff.mp h
    exact List.cons_ne_nil _ _

/-- A line is refused exactly when it is not well formed (R49). -/
theorem assemble_eq_none_iff (l : AsmLine) : assemble l = none ↔ l.wellFormed = false := by
  unfold assemble
  split <;> simp_all

/-- What an accepted line gives: at least one command, each a word that decodes to a command of the line, all with the
line's data operand. -/
theorem assemble_eq_some {l : AsmLine} {evs : List PortEvent} (h : assemble l = some evs) :
    evs ≠ [] ∧ ∀ e ∈ evs, ∃ C i,
      e = .command C (BitVec.ofNat 32 (l.data.getD 0)) ∧ decode C = .ok i ∧ i ∈ expandLine l := by
  unfold assemble at h
  split at h
  next hwf =>
    obtain rfl := Option.some.inj h
    obtain ⟨hops, -⟩ := Bool.and_eq_true_iff.mp hwf
    refine ⟨?_, fun e he => ?_⟩
    · rw [Ne, List.map_eq_nil_iff]
      exact expandLine_ne_nil (length_of_operandsFit hops) l.data
    · obtain ⟨i, hi, rfl⟩ := List.mem_map.mp he
      exact ⟨encode i, i, rfl, decode_encode i, hi⟩
  next => exact absurd h nofun

/-- Settles O60: the form lemma of each mnemonic, then the general clauses. -/
theorem assembledLinesDecode : Obligations.AssembledLinesDecode := by
  unfold Obligations.AssembledLinesDecode
  refine ⟨fun ops data => ?_, fun l => ⟨assemble_eq_none_iff l, fun evs => assemble_eq_some⟩⟩
  exact ⟨assemble_none [.nop] ops data, assemble_none [.rdst] ops data, assemble_none [.clre] ops data,
    assemble_write .wrkb ops data, assemble_one .rdkb ops data, assemble_write .wrbb ops data,
    assemble_one .rdbb ops data, assemble_write .wrx ops data, assemble_one .rdx ops data,
    assemble_write .wrrk ops data, assemble_one .rdrk ops data, assemble_one .ldrk ops data,
    assemble_two .rdsk ops data, assemble_one .b2w ops data, assemble_one .w2b ops data,
    assemble_two .rol ops data, assemble_two .ror ops data, assemble_two .ksched ops data,
    assemble_none [.encr] ops data, assemble_none [.decr] ops data, assemble_none [.encb] ops data,
    assemble_none [.decb] ops data, assemble_one (.ksched 16) ops data, assemble_one (.ksched 24) ops data,
    assemble_one (.ksched 32) ops data, assemble_none [.b2w 0, .b2w 1, .b2w 2, .b2w 3] ops data,
    assemble_none [.w2b 0, .w2b 1, .w2b 2, .w2b 3] ops data⟩

/-- Lines that are accepted alike and stand for the same commands with the same data assemble alike. -/
theorem assemble_congr {l l' : AsmLine} (hwf : l.wellFormed = l'.wellFormed) (hexp : expandLine l = expandLine l')
    (hdata : l.data = l'.data) : assemble l = assemble l' := by
  rw [assemble, assemble, hwf, hexp, hdata]

/-- Settles O59: each pseudo-command stands for the commands of its expansion, and is accepted with it. -/
theorem pseudoCommandsExpand : Obligations.PseudoCommandsExpand := by
  unfold Obligations.PseudoCommandsExpand
  refine ⟨fun dir => ⟨?ks128, ?ks192, ?ks256⟩, ?b2wAll, ?w2bAll⟩
  case ks128 | ks192 | ks256 => exact assemble_congr rfl rfl rfl
  case b2wAll =>
    exact assemble_none (m := .b2wAll) (words := [0x8000, 0x8001, 0x8002, 0x8003]) [.b2w 0, .b2w 1, .b2w 2, .b2w 3] [] none
  case w2bAll =>
    exact assemble_none (m := .w2bAll) (words := [0x8800, 0x8801, 0x8802, 0x8803]) [.w2b 0, .w2b 1, .w2b 2, .w2b 3] [] none

end Sys2Proof.Machine
end

section
/-! PROOFS. The Word Codec (`40_word_codec.md`). Its pure functions first: the bytes of a word and back (R51, R52), and which bit
each bit of a rotation is (R53, R54), from which every identity of R55 follows bit by bit. Then the four commands: each is an
equation of `exec`, and what its write does to one word of `X` or one group of `BLK` is a lemma about that write. Statements
O23 to O29. -/

namespace Sys2Proof.Machine

/-! ## Bytes and words -/

/-- The word of four bytes as a number (R51). -/
theorem toNat_bytesToWord (b0 b1 b2 b3 : Byte) :
    (bytesToWord b0 b1 b2 b3).toNat = b0.toNat + 256 * b1.toNat + 65536 * b2.toNat + 16777216 * b3.toNat := by
  simp only [bytesToWord_eq_append, toNat_append_eq_add]
  omega

/-- Byte `n` of a word put together from four bytes is the `n`th of them. -/
theorem extractLsb'_bytesToWord (b0 b1 b2 b3 : Byte) (n : Nat) (hn : n < 4) :
    (bytesToWord b0 b1 b2 b3).extractLsb' (8 * n) 8 = #v[b0, b1, b2, b3][n] := by
  apply BitVec.eq_of_toNat_eq
  rw [BitVec.extractLsb'_toNat, toNat_bytesToWord, Nat.shiftRight_eq_div_pow]
  have h0 := b0.isLt; have h1 := b1.isLt; have h2 := b2.isLt; have h3 := b3.isLt
  match n, hn with
  | 0, _ => show _ = b0.toNat; omega
  | 1, _ => show _ = b1.toNat; omega
  | 2, _ => show _ = b2.toNat; omega
  | 3, _ => show _ = b3.toNat; omega

/-- Taking a word apart undoes putting it together. -/
theorem wordToBytes_bytesToWord (b0 b1 b2 b3 : Byte) : wordToBytes (bytesToWord b0 b1 b2 b3) = #v[b0, b1, b2, b3] := by
  ext n hn
  rw [getElem_wordToBytes, extractLsb'_bytesToWord]

/-- Putting a word together from its own bytes gives it back. -/
theorem groupToWord_wordToBytes (w : Word) : groupToWord (wordToBytes w) = w := by
  apply BitVec.eq_of_toNat_eq
  have hbytes := toNat_bytesToWord (w.extractLsb' 0 8) (w.extractLsb' 8 8) (w.extractLsb' 16 8) (w.extractLsb' 24 8)
  simp only [BitVec.extractLsb'_toNat, Nat.shiftRight_eq_div_pow] at hbytes
  have hw := w.isLt
  calc (groupToWord (wordToBytes w)).toNat
    _ = _ := hbytes
    _ = w.toNat := by omega

/-- Taking apart the word of a group gives the group. -/
theorem wordToBytes_groupToWord (g : Vector Byte 4) : wordToBytes (groupToWord g) = g := by
  rw [groupToWord, wordToBytes_bytesToWord]
  ext n hn
  interval_cases n <;> rfl

/-- Settles O23: the places of the bytes are the entries of `wordToBytes`. -/
theorem bytesAndWordsRoundTrip : Obligations.BytesAndWordsRoundTrip := by
  unfold Obligations.BytesAndWordsRoundTrip
  refine ⟨fun b0 b1 b2 b3 => ?bytes, fun w => ⟨fun n => getElem_wordToBytes w n.val n.isLt, groupToWord_wordToBytes w⟩⟩
  case bytes =>
    have hplace := extractLsb'_bytesToWord b0 b1 b2 b3
    exact ⟨toNat_bytesToWord b0 b1 b2 b3, hplace 0 (by decide), hplace 1 (by decide), hplace 2 (by decide),
      hplace 3 (by decide), wordToBytes_bytesToWord b0 b1 b2 b3⟩

/-! ## Rotations -/

/-- Bit `p` of a left rotation is the bit `r` places below it, around the end (R53). -/
theorem getLsbD_rotateLeft (w : Word) (r : Nat) {p : Nat} (hp : p < 32) :
    (rotateLeft w r).getLsbD p = w.getLsbD ((p + (32 - r % 32)) % 32) := by
  rw [rotateLeft_eq, BitVec.getLsbD_rotateLeft, Nat.mod_mod]
  by_cases hwrap : p < r % 32
  · rw [decide_eq_true hwrap, cond_true]
    congr 1; omega
  · rw [decide_eq_false hwrap, cond_false, decide_eq_true hp, Bool.true_and]
    congr 1; omega

/-- Bit `p` of a right rotation is the bit `r` places above it, around the end (R54). -/
theorem getLsbD_rotateRight (w : Word) (r : Nat) {p : Nat} (hp : p < 32) :
    (rotateRight w r).getLsbD p = w.getLsbD ((p + r) % 32) := by
  rw [rotateRight_eq, BitVec.getLsbD_rotateRight, Nat.mod_mod]
  by_cases hwrap : p < 32 - r % 32
  · rw [decide_eq_true hwrap, cond_true]
    congr 1; omega
  · rw [decide_eq_false hwrap, cond_false, decide_eq_true hp, Bool.true_and]
    congr 1; omega

/-- A right rotation is the left rotation by the rest of the word's length. -/
theorem rotateRight_eq_rotateLeft (w : Word) (r : Nat) : rotateRight w r = rotateLeft w (32 - r % 32) := by
  apply BitVec.eq_of_getLsbD_eq
  intro p hp
  rw [getLsbD_rotateRight w r hp, getLsbD_rotateLeft w _ hp]
  congr 1; omega

/-- Settles O24: the two bit-by-bit sentences, and the one way of rotation by the other. -/
theorem rotationMovesBits : Obligations.RotationMovesBits := by
  unfold Obligations.RotationMovesBits
  intro w r p hp
  exact ⟨getLsbD_rotateLeft w r hp, getLsbD_rotateRight w r hp, fun _ => rotateRight_eq_rotateLeft w r⟩

/-- `ROL` undoes `ROR`. -/
theorem rotateLeft_rotateRight (w : Word) (r : Nat) : rotateLeft (rotateRight w r) r = w := by
  apply BitVec.eq_of_getLsbD_eq
  intro p hp
  rw [getLsbD_rotateLeft _ r hp, getLsbD_rotateRight w r (Nat.mod_lt _ (by decide))]
  congr 1; omega

/-- `ROR` undoes `ROL`. -/
theorem rotateRight_rotateLeft (w : Word) (r : Nat) : rotateRight (rotateLeft w r) r = w := by
  apply BitVec.eq_of_getLsbD_eq
  intro p hp
  rw [getLsbD_rotateRight _ r hp, getLsbD_rotateLeft w r (Nat.mod_lt _ (by decide))]
  congr 1; omega

/-- Left rotations compose by adding their amounts. -/
theorem rotateLeft_rotateLeft (w : Word) (r q : Nat) : rotateLeft (rotateLeft w r) q = rotateLeft w (r + q) := by
  apply BitVec.eq_of_getLsbD_eq
  intro p hp
  rw [getLsbD_rotateLeft _ q hp, getLsbD_rotateLeft w r (Nat.mod_lt _ (by decide)), getLsbD_rotateLeft w _ hp]
  congr 1; omega

/-- Only `r mod 32` matters to a left rotation. -/
theorem rotateLeft_congr (w : Word) {r q : Nat} (h : r % 32 = q % 32) : rotateLeft w r = rotateLeft w q := by
  rw [rotateLeft_eq, rotateLeft_eq, h]

/-- Only `r mod 32` matters to a right rotation. -/
theorem rotateRight_congr (w : Word) {r q : Nat} (h : r % 32 = q % 32) : rotateRight w r = rotateRight w q := by
  rw [rotateRight_eq, rotateRight_eq, h]

theorem rotateLeft_of_mod_eq_zero (w : Word) {r : Nat} (h : r % 32 = 0) : rotateLeft w r = w := by
  simp [rotateLeft, h]

theorem rotateRight_of_mod_eq_zero (w : Word) {r : Nat} (h : r % 32 = 0) : rotateRight w r = w := by
  simp [rotateRight, h]

/-- Settles O25: each identity holds bit by bit. -/
theorem rotationsInvertAndCompose : Obligations.RotationsInvertAndCompose := by
  unfold Obligations.RotationsInvertAndCompose
  intro w r q
  have hq : 32 * q % 32 = 0 := Nat.mul_mod_right 32 q
  exact ⟨rotateLeft_rotateRight w r, rotateRight_rotateLeft w r, rotateLeft_of_mod_eq_zero w hq,
    rotateRight_of_mod_eq_zero w hq, rotateLeft_rotateLeft w r q⟩

/-! ## Words with a reserved bit set -/

/-- A word with a 1 in a field that the format of its opcode reserves is illegal (R47). -/
theorem illegalWords_of_reservedField {op : BitVec 5} (hop : op ∉ reservedOpcodes) {start len : Nat}
    (hfield : (reservedBits op).extractLsb' start len = BitVec.allOnes len) :
    IllegalWords (fun C => opcode C = op ∧ C.extractLsb' start len ≠ 0) := by
  refine illegalWords_of_decode fun C hbad => ⟨.reservedBit, decode_eq_error_iff_opcode.mpr (.inr ?_)⟩
  obtain ⟨rfl, hset⟩ := hbad
  refine ⟨hop, fun hzero => hset ?_, rfl⟩
  calc C.extractLsb' start len
    _ = (C &&& reservedBits (opcode C)).extractLsb' start len := by
      rw [BitVec.extractLsb'_and, hfield, BitVec.and_allOnes]
    _ = 0 := by rw [hzero]; exact BitVec.extractLsb'_zero

/-- The same for a field of one bit. -/
theorem illegalWords_of_reservedBit {op : BitVec 5} (hop : op ∉ reservedOpcodes) {n : Nat}
    (hbit : (reservedBits op).extractLsb' n 1 = BitVec.allOnes 1) :
    IllegalWords (fun C => opcode C = op ∧ C.getLsbD n = true) := by
  intro C d rest s hin ⟨hC, hset⟩
  refine illegalWords_of_reservedField hop hbit C d rest s hin ⟨hC, fun hzero => ?_⟩
  have hclear := congrArg (BitVec.getLsbD · 0) hzero
  simp [hset] at hclear

/-! ## The commands as equations, and what their writes do -/

theorem exec_b2w (j : BitVec 2) (s : State) : exec (.b2w j) s =
    .next { s with
      x := s.x.set (wordIndex j) (groupToWord (memRead s.blk (groupOffset j) 4 (groupOffset_le j))), rsp := some ⟨0, 0⟩ } :=
  rfl

theorem exec_w2b (j : BitVec 2) (s : State) : exec (.w2b j) s =
    .next { s with blk := memWrite s.blk (groupOffset j) (wordToBytes s.x[wordIndex j]), rsp := some ⟨0, 0⟩ } :=
  rfl

theorem exec_rol (j : BitVec 2) (r : BitVec 8) (s : State) : exec (.rol j r) s =
    .next { s with x := s.x.set (wordIndex j) (rotateLeft s.x[wordIndex j] r.toNat), rsp := some ⟨0, 0⟩ } :=
  rfl

theorem exec_ror (j : BitVec 2) (r : BitVec 8) (s : State) : exec (.ror j r) s =
    .next { s with x := s.x.set (wordIndex j) (rotateRight s.x[wordIndex j] r.toNat), rsp := some ⟨0, 0⟩ } :=
  rfl

/-- Word `m` after a write of `X[j]`. -/
theorem getElem_set_wordIndex (x : Vector Word 4) (j : BitVec 2) (v : Word) (m : Fin 4) :
    (x.set (wordIndex j) v)[m] = if m.val = j.toNat then v else x[m] := by
  simp only [Fin.getElem_fin, Vector.getElem_set, eq_comm]

theorem getElem_set_wordIndex_self (x : Vector Word 4) (j : BitVec 2) (v : Word) :
    (x.set (wordIndex j) v)[wordIndex j] = v := by
  rw [getElem_set_wordIndex, if_pos rfl]

/-- Word `m` after `X[j]` has been replaced by a function of itself. -/
theorem getElem_set_wordIndex_apply (x : Vector Word 4) (j : BitVec 2) (f : Word → Word) (m : Fin 4) :
    (x.set (wordIndex j) (f x[wordIndex j]))[m] = if m.val = j.toNat then f x[m] else x[m] := by
  rw [getElem_set_wordIndex]
  split
  next hm => rw [show m = wordIndex j from Fin.ext hm]
  next => rfl

/-- Writing `X[j]` as it is changes nothing. -/
theorem set_wordIndex_of_eq (x : Vector Word 4) (j : BitVec 2) {v : Word} (hv : v = x[wordIndex j]) :
    x.set (wordIndex j) v = x := by
  rw [hv]; exact Vector.set_getElem_self _

/-- Writing back what `X[j]` was undoes a write of it. -/
theorem set_set_wordIndex_of_eq (x : Vector Word 4) (j : BitVec 2) (v : Word) {w : Word} (hw : w = x[wordIndex j]) :
    (x.set (wordIndex j) v).set (wordIndex j) w = x := by
  rw [Vector.set_set, set_wordIndex_of_eq x j hw]

/-- Byte `a` after group `j` of the block has been written: its group is `a / 4`, its place in the group `a mod 4` (R29). -/
theorem getElem_memWrite_group (B : Vector Byte 16) (j : BitVec 2) (bytes : Vector Byte 4) (a : Fin 16) :
    (memWrite B (groupOffset j) bytes)[a] =
      if a.val / 4 = j.toNat then bytes[a.val % 4]'(Nat.mod_lt _ (by decide)) else B[a] := by
  rw [Fin.getElem_fin, getElem_memWrite]
  unfold groupOffset
  split
  next hin =>
    rw [if_pos (by omega)]
    congr 1; omega
  next hout => rw [if_neg (by omega)]; rfl

/-! ## `B2W` and `W2B` -/

/-- Settles O26: the write of `X[j]`, whose value is the word of group `j`. -/
theorem b2wComposesOneWord : Obligations.B2wComposesOneWord := by
  unfold Obligations.B2wComposesOneWord
  refine ⟨fun j => toNat_encode (.b2w j), illegalWords_of_reservedField (by decide) (by decide),
    fun j s => ⟨_, exec_b2w j s, fun m => ?_⟩⟩
  rw [getElem_set_wordIndex]
  split
  next hm => simp only [groupToWord, getElem_memRead, groupOffset, hm, Nat.add_zero]
  next => rfl

/-- `W2B j` after `B2W j` leaves `BLK` as it was: it writes back the group that was read. -/
theorem w2b_after_b2w_keeps_blk (j : BitVec 2) (s : State) :
    ∃ t u, exec (.b2w j) s = .next t ∧ exec (.w2b j) t = .next u ∧ u.blk = s.blk := by
  refine ⟨_, _, exec_b2w j s, exec_w2b j _, ?_⟩
  dsimp only
  rw [getElem_set_wordIndex_self, wordToBytes_groupToWord, memWrite_memRead]

/-- `B2W j` after `W2B j` leaves `X` as it was: it reads back the bytes that were written. -/
theorem b2w_after_w2b_keeps_x (j : BitVec 2) (s : State) :
    ∃ t u, exec (.w2b j) s = .next t ∧ exec (.b2w j) t = .next u ∧ u.x = s.x := by
  refine ⟨_, _, exec_w2b j s, exec_b2w j _, set_wordIndex_of_eq s.x j ?_⟩
  dsimp only
  rw [memRead_memWrite, groupToWord_wordToBytes]

/-- Settles O27: the write of group `j`, whose values are the bytes of `X[j]`, and the two corner cases of R59. -/
theorem w2bStoresOneWord : Obligations.W2bStoresOneWord := by
  unfold Obligations.W2bStoresOneWord
  refine ⟨fun j => toNat_encode (.w2b j), illegalWords_of_reservedField (by decide) (by decide),
    fun j s => ⟨_, exec_w2b j s, fun a => ?_⟩, fun j s => ⟨w2b_after_b2w_keeps_blk j s, b2w_after_w2b_keeps_x j s⟩⟩
  rw [getElem_memWrite_group, getElem_wordToBytes]
  rfl

/-! ## `ROL` and `ROR` -/

/-- `r + 32`, also where the field of 8 bits wraps, is the same amount as `r`. -/
theorem toNat_add_32_mod_32 (r : BitVec 8) : (r + 32).toNat % 32 = r.toNat % 32 := by
  rw [BitVec.toNat_add, show (32 : BitVec 8).toNat = 32 from rfl]; omega

/-- Settles O28: the write of `X[j]`, and that the rotation sees `r mod 32` only. -/
theorem rolRotatesOneWordLeft : Obligations.RolRotatesOneWordLeft := by
  unfold Obligations.RolRotatesOneWordLeft
  refine ⟨fun j r => toNat_encode (.rol j r), illegalWords_of_reservedBit (by decide) (by decide),
    fun j r s => ⟨_, exec_rol j r s, ?wraps, fun hr => ?multiple, ?words⟩⟩
  case wraps => rw [exec_rol, rotateLeft_congr _ (toNat_add_32_mod_32 r)]
  case multiple => exact set_wordIndex_of_eq s.x j (rotateLeft_of_mod_eq_zero _ hr)
  case words => exact getElem_set_wordIndex_apply s.x j (rotateLeft · r.toNat)

/-- Settles O29: as O28 with the other rotation, and that `ROL` by the same amount undoes it. -/
theorem rorRotatesOneWordRight : Obligations.RorRotatesOneWordRight := by
  unfold Obligations.RorRotatesOneWordRight
  refine ⟨fun j r => toNat_encode (.ror j r), illegalWords_of_reservedBit (by decide) (by decide),
    fun j r s => ⟨_, _, exec_ror j r s, ?wraps, fun hr => ?multiple, ?words, exec_rol j r _, ?restores⟩⟩
  case wraps => rw [exec_ror, rotateRight_congr _ (toNat_add_32_mod_32 r)]
  case multiple => exact set_wordIndex_of_eq s.x j (rotateRight_of_mod_eq_zero _ hr)
  case words => exact getElem_set_wordIndex_apply s.x j (rotateRight · r.toNat)
  case restores =>
    refine set_set_wordIndex_of_eq s.x j _ ?_
    dsimp only
    rw [getElem_set_wordIndex_self, rotateLeft_rotateRight]

end Sys2Proof.Machine
end

section
/-! PROOFS. The Key Schedule Generator (`41_key_schedule.md`). A round is a fold of updates whose targets differ, so each target is
rewritten once and from its old value (`foldl_updateAt_target`); the recurrences of R68 to R70 are that fact at the targets of
each variant. `buildSchedule` expands by the key's length and then orders by direction, and `KSCHED` installs what it
answers. Statements O30 to O37. -/

namespace Sys2Proof.Machine

/-! ## The updates of one round (R66) -/

section
variable {n : Nat} {κ : Type} (delta : Vector Word 8) (L : KeyLength) (i : Nat) (row : κ → Fin 6) (target : κ → Fin n)

/-- A word that is no target of an update keeps its value. -/
theorem updateAt_of_ne (k : Fin 6) {t m : Fin n} (h : m ≠ t) (T : Vector Word n) :
    (updateAt delta L i k t T)[m] = T[m] :=
  Vector.getElem_set_ne _ _ fun e => h (Fin.ext e.symm)

theorem updateAt_target (k : Fin 6) (t : Fin n) (T : Vector Word n) :
    (updateAt delta L i k t T)[t] = updatedWord delta L i k T[t] :=
  Vector.getElem_set_self _

/-- A word outside the targets of a round keeps its value. -/
theorem foldl_updateAt_of_notMem (ks : List κ) (T : Vector Word n) {m : Fin n} (h : m ∉ ks.map target) :
    (ks.foldl (fun T k => updateAt delta L i (row k) (target k) T) T)[m] = T[m] := by
  induction ks generalizing T with
  | nil => rfl
  | cons k ks ih =>
    obtain ⟨hk, hks⟩ := not_or.mp (mt List.mem_cons.mpr h)
    rw [List.foldl_cons, ih _ hks, updateAt_of_ne delta L i (row k) hk]

/-- Where the targets of a round differ, each is rewritten from its value before the round. -/
theorem foldl_updateAt_target (ks : List κ) (hks : (ks.map target).Nodup) (T : Vector Word n) {k : κ} (hk : k ∈ ks) :
    (ks.foldl (fun T k => updateAt delta L i (row k) (target k) T) T)[target k] =
      updatedWord delta L i (row k) T[target k] := by
  induction ks generalizing T with
  | nil => cases hk
  | cons k' ks ih =>
    obtain ⟨hnot, hnodup⟩ := List.nodup_cons.mp hks
    rw [List.foldl_cons]
    rcases List.mem_cons.mp hk with rfl | hmem
    · rw [foldl_updateAt_of_notMem delta L i row target ks _ hnot, updateAt_target]
    · have hne : target k ≠ target k' := fun e => hnot (e ▸ List.mem_map_of_mem hmem)
      rw [ih hnodup _ hmem, updateAt_of_ne delta L i (row k') hne]

end

/-! ## The rounds of the three variants (R68 to R70) -/

/-- Round `i` of the 128-bit variant, word by word. -/
theorem getElem_round128 (delta : Vector Word 8) (i : Nat) (T : Vector Word 4) (k : Fin 4) :
    (round128 delta i T)[k] = updatedWord delta .k128 i (k.castLE (by decide)) T[k] :=
  foldl_updateAt_target delta .k128 i (Fin.castLE (by decide)) id [0, 1, 2, 3] (by decide) T (by revert k; decide)

/-- Round `i` of the 192-bit variant, word by word. -/
theorem getElem_round192 (delta : Vector Word 8) (i : Nat) (T : Vector Word 6) (k : Fin 6) :
    (round192 delta i T)[k] = updatedWord delta .k192 i k T[k] :=
  foldl_updateAt_target delta .k192 i id id [0, 1, 2, 3, 4, 5] (by decide) T (by revert k; decide)

/-- The six targets of a round of the 256-bit variant differ. -/
theorem window256_injective (i : Nat) : Function.Injective (window256 i) := by
  intro k k' h
  have hmod : (6 * i + k.val) % 8 = (6 * i + k'.val) % 8 := congrArg Fin.val h
  omega

/-- Round `i` of the 256-bit variant at the target of update `k`. -/
theorem getElem_round256_window (delta : Vector Word 8) (i : Nat) (T : Vector Word 8) (k : Fin 6) :
    (round256 delta i T)[window256 i k] = updatedWord delta .k256 i k T[window256 i k] :=
  foldl_updateAt_target delta .k256 i id (window256 i) [0, 1, 2, 3, 4, 5]
    (List.Nodup.map (window256_injective i) (by decide)) T (by revert k; decide)

/-- Round `i` of the 256-bit variant keeps a word outside its window. -/
theorem getElem_round256_outside (delta : Vector Word 8) (i : Nat) (T : Vector Word 8) {m : Fin 8}
    (h : ∀ k, window256 i k ≠ m) : (round256 delta i T)[m] = T[m] := by
  refine foldl_updateAt_of_notMem delta .k256 i id (window256 i) [0, 1, 2, 3, 4, 5] T fun hmem => ?_
  obtain ⟨k, -, hk⟩ := List.mem_map.mp hmem
  exact h k hk

/-! ## The expansions (R65, R68 to R70) -/

/-- Key word `j` (R65). -/
theorem getElem_keyWords {n : Nat} (key : Vector Byte (4 * n)) (j : Fin n) :
    (keyWords key)[j] = bytesToWord key[4 * j.val] key[4 * j.val + 1] key[4 * j.val + 2] key[4 * j.val + 3] :=
  getElem_tabulate _ j.val j.isLt

@[simp] theorem length_expand128 (delta : Vector Word 8) (key : Vector Byte 16) : (expand128 delta key).length = 24 :=
  length_expandFrom ..

@[simp] theorem length_expand192 (delta : Vector Word 8) (key : Vector Byte 24) : (expand192 delta key).length = 28 :=
  length_expandFrom ..

@[simp] theorem length_expand256 (delta : Vector Word 8) (key : Vector Byte 32) : (expand256 delta key).length = 32 :=
  length_expandFrom ..

/-- The 128-bit variant uses the first four shift amounts (R63, R68). -/
theorem shiftTable_castLE (k : Fin 4) : shiftTable[k.castLE (by decide : 4 ≤ 6)] = #v[1, 3, 6, 11][k] := by
  revert k; decide

/-- Settles O30: the arrays are those after each round of the model's own loop. -/
theorem expand128FollowsTheRecurrence : Obligations.Expand128FollowsTheRecurrence := by
  unfold Obligations.Expand128FollowsTheRecurrence
  intro delta key
  refine ⟨fun i k => (afterRounds (round128 delta) (keyWords (n := 4) key) i)[k], getElem_keyWords (n := 4) key,
    fun i _ k => ?recurrence, length_expand128 delta key, fun i h => getElem_expandFrom _ _ _ _ i h⟩
  case recurrence =>
    rw [← shiftTable_castLE k]
    exact getElem_round128 delta i _ k

/-- Settles O31: as O30. -/
theorem expand192FollowsTheRecurrence : Obligations.Expand192FollowsTheRecurrence := by
  unfold Obligations.Expand192FollowsTheRecurrence
  intro delta key
  refine ⟨fun i k => (afterRounds (round192 delta) (keyWords (n := 6) key) i)[k], getElem_keyWords (n := 6) key,
    fun i _ k => getElem_round192 delta i _ k, length_expand192 delta key, fun i h k => ?placed⟩
  case placed => exact congrArg (fun rk : RoundKey => rk[k]) (getElem_expandFrom _ _ _ _ i h)

/-- The words of the 256-bit variant's array after `i` rounds, an index above 7 taken mod 8. -/
def words256 (delta : Vector Word 8) (key : Vector Byte 32) (i t : Nat) : Word :=
  (afterRounds (round256 delta) (keyWords (n := 8) key) i)[Fin.ofNat 8 t]

theorem words256_val (delta : Vector Word 8) (key : Vector Byte 32) (i : Nat) (m : Fin 8) :
    words256 delta key i m.val = (afterRounds (round256 delta) (keyWords (n := 8) key) i)[m] := by
  simp only [words256, Fin.ofNat_val_eq_self]

/-- A word of the array that round `i` does not target is as before it. -/
theorem words256_succ_outside (delta : Vector Word 8) (key : Vector Byte 32) (i : Nat) {m : Fin 8}
    (h : ∀ k, window256 i k ≠ m) : words256 delta key (i + 1) m.val = words256 delta key i m.val := by
  rw [words256_val, words256_val]
  exact getElem_round256_outside delta i _ h

/-- The two words after the six targets are outside the window (R70). -/
theorem window256_ne_of_six_le {i c : Nat} (hc : 6 ≤ c ∧ c < 8) (k : Fin 6) :
    window256 i k ≠ ⟨(6 * i + c) % 8, Nat.mod_lt _ (by decide)⟩ := by
  intro h
  have hmod : (6 * i + k.val) % 8 = (6 * i + c) % 8 := congrArg Fin.val h
  omega

/-- Settles O32: as O30, with the window of round `i` and the two words outside it. -/
theorem expand256FollowsTheRecurrence : Obligations.Expand256FollowsTheRecurrence := by
  unfold Obligations.Expand256FollowsTheRecurrence
  intro delta key
  refine ⟨words256 delta key, fun j => ?start, fun i _ => ⟨fun k => ?target, ?outside6, ?outside7⟩,
    length_expand256 delta key, fun i h k => ?placed⟩
  case start => exact (words256_val delta key 0 j).trans (getElem_keyWords (n := 8) key j)
  case target =>
    have hwindow := fun m => words256_val delta key m (window256 i k)
    calc words256 delta key (i + 1) (window256 i k).val
      _ = updatedWord delta .k256 i k _ := (hwindow (i + 1)).trans (getElem_round256_window delta i _ k)
      _ = updatedWord delta .k256 i k (words256 delta key i (window256 i k).val) := by rw [hwindow]
  case outside6 => exact words256_succ_outside delta key i (window256_ne_of_six_le (by decide))
  case outside7 => exact words256_succ_outside delta key i (window256_ne_of_six_le (by decide))
  case placed =>
    calc (expand256 delta key)[i][k]
      _ = (roundKey256 i (afterRounds (round256 delta) (keyWords (n := 8) key) (i + 1)))[k] :=
        congrArg (fun rk : RoundKey => rk[k]) (getElem_expandFrom _ _ _ _ i h)
      _ = (afterRounds (round256 delta) (keyWords (n := 8) key) (i + 1))[window256 i k] :=
        getElem_tabulate _ k.val k.isLt
      _ = words256 delta key (i + 1) (window256 i k).val := (words256_val delta key (i + 1) _).symm

/-- The word `T[1]` stands in a round key of a 16-byte key three times (R68, R73). -/
theorem expand128_redundant (delta : Vector Word 8) (key : Vector Byte 16) {rk : RoundKey}
    (h : rk ∈ expand128 delta key) : rk[1] = rk[3] ∧ rk[3] = rk[5] := by
  obtain ⟨i, hi, rfl⟩ := List.mem_iff_getElem.mp h
  have hplaced : (expand128 delta key)[i] = roundKey128 _ := getElem_expandFrom _ _ _ _ i hi
  rw [hplaced]
  exact ⟨rfl, rfl⟩

/-! ## `buildSchedule` (R71 to R73) -/

theorem mem_legal_lengths_iff {n : Nat} : n ∈ [16, 24, 32] ↔ ∃ L : KeyLength, n = L.bytes := by
  refine ⟨fun h => ?_, fun ⟨L, hL⟩ => by rw [hL]; cases L <;> decide⟩
  have hn : n = 16 ∨ n = 24 ∨ n = 32 := by simpa using h
  rcases hn with rfl | rfl | rfl
  exacts [⟨.k128, rfl⟩, ⟨.k192, rfl⟩, ⟨.k256, rfl⟩]

/-- `EK` is the expansion of the variant that the length of `key` selects (R71). -/
def IsExpansion (delta : Vector Word 8) (key : List Byte) (EK : KeySchedule) : Prop :=
  (∀ h : key.length = 16, EK = expand128 delta ⟨key.toArray, by simpa using h⟩) ∧
  (∀ h : key.length = 24, EK = expand192 delta ⟨key.toArray, by simpa using h⟩) ∧
  (∀ h : key.length = 32, EK = expand256 delta ⟨key.toArray, by simpa using h⟩)

/-- `buildSchedule` of a key of a legal length orders the expansion of that length's variant (R71). -/
theorem buildSchedule_eq_ordered (delta : Vector Word 8) {L : KeyLength} {key : List Byte} (hkey : key.length = L.bytes) :
    ∃ EK, IsExpansion delta key EK ∧ EK.length = L.rounds ∧
      ∀ direction, buildSchedule delta key direction = ordered EK direction := by
  cases L <;> simp only [KeyLength.bytes] at hkey
  case k128 =>
    exact ⟨expand128 delta ⟨key.toArray, by simpa using hkey⟩, ⟨fun _ => rfl, by omega, by omega⟩,
      length_expand128 delta _, fun _ => by simp [buildSchedule, hkey]⟩
  case k192 =>
    exact ⟨expand192 delta ⟨key.toArray, by simpa using hkey⟩, ⟨by omega, fun _ => rfl, by omega⟩,
      length_expand192 delta _, fun _ => by simp [buildSchedule, hkey]⟩
  case k256 =>
    exact ⟨expand256 delta ⟨key.toArray, by simpa using hkey⟩, ⟨by omega, by omega, fun _ => rfl⟩,
      length_expand256 delta _, fun _ => by simp [buildSchedule, hkey]⟩

theorem ordered_encrypt (EK : KeySchedule) : ordered EK 0 = .ok EK := rfl

theorem ordered_decrypt (EK : KeySchedule) : ordered EK 1 = .ok EK.reverse := rfl

/-- The other values of `dir` name no direction (R44, R71). -/
theorem ordered_of_notMem (EK : KeySchedule) {dir : BitVec 2} (h : dir ∉ [0, 1]) : ordered EK dir = .error .dir := by
  have hd : directionOf dir = none := by revert dir; decide
  rw [ordered, hd]

/-- Ordering rearranges the round keys and makes no new one. -/
theorem mem_of_ordered {EK S : KeySchedule} {dir : BitVec 2} (h : ordered EK dir = .ok S) {rk : RoundKey} (hrk : rk ∈ S) :
    rk ∈ EK := by
  rcases directionOf_eq dir with ⟨rfl, -⟩ | ⟨rfl, -⟩ | ⟨-, hd⟩
  · cases h.symm.trans (ordered_encrypt EK)
    exact hrk
  · cases h.symm.trans (ordered_decrypt EK)
    exact List.mem_reverse.mp hrk
  · rw [ordered, hd] at h
    cases h

/-- Settles O33: the failures by the length and by the direction, then position `i` or `Nr-1-i`. -/
theorem buildScheduleChecksThenPlaces : Obligations.BuildScheduleChecksThenPlaces := by
  unfold Obligations.BuildScheduleChecksThenPlaces
  intro delta key direction
  refine ⟨fun hlen => buildSchedule_bad_length delta key direction (by simpa using hlen), fun hlen hdir => ?badDirection,
    fun hlen hdir => ?placed⟩
  case badDirection =>
    obtain ⟨L, hL⟩ := mem_legal_lengths_iff.mp hlen
    obtain ⟨EK, -, -, hbuild⟩ := buildSchedule_eq_ordered delta hL
    rw [hbuild, ordered_of_notMem EK hdir]
  case placed =>
    obtain ⟨L, hL⟩ := mem_legal_lengths_iff.mp hlen
    obtain ⟨EK, ⟨h128, h192, h256⟩, -, hbuild⟩ := buildSchedule_eq_ordered delta hL
    have hdir' : direction = 0 ∨ direction = 1 := by simpa using hdir
    rcases hdir' with rfl | rfl
    · exact ⟨EK, EK, h128, h192, h256, hbuild 0, rfl, fun i h => ⟨fun _ => List.getElem?_eq_getElem h, nofun⟩⟩
    · refine ⟨EK, EK.reverse, h128, h192, h256, hbuild 1, List.length_reverse, fun i h => ⟨nofun, fun _ => ?_⟩⟩
      rw [List.getElem?_reverse (by omega), show EK.length - 1 - (EK.length - 1 - i) = i by omega,
        List.getElem?_eq_getElem h]

/-- Settles O34: both orders of one expansion. -/
theorem decryptScheduleIsReversed : Obligations.DecryptScheduleIsReversed := by
  unfold Obligations.DecryptScheduleIsReversed
  intro delta key hlen
  obtain ⟨L, hL⟩ := mem_legal_lengths_iff.mp hlen
  obtain ⟨EK, -, -, hbuild⟩ := buildSchedule_eq_ordered delta hL
  exact ⟨EK, EK.reverse, hbuild 0, hbuild 1, List.length_reverse, fun i hi => List.getElem?_reverse hi⟩

/-- Settles O35: the length is the number of rounds, and a round key of a 16-byte key is one of `expand128`. -/
theorem scheduleLengthAndRedundancy : Obligations.ScheduleLengthAndRedundancy := by
  unfold Obligations.ScheduleLengthAndRedundancy
  intro delta key direction
  refine ⟨fun S hS => ⟨fun hkey => ⟨(buildSchedule_eq_ok (L := .k128) hkey hS).1, fun rk hrk => ?redundant⟩,
    fun hkey => (buildSchedule_eq_ok (L := .k192) hkey hS).1, fun hkey => (buildSchedule_eq_ok (L := .k256) hkey hS).1⟩,
    fun hkey => buildSchedule_bad_length delta key direction (by omega)⟩
  case redundant =>
    obtain ⟨EK, ⟨h128, -, -⟩, -, hbuild⟩ := buildSchedule_eq_ordered delta (L := .k128) hkey
    rw [hbuild] at hS
    have hmem := mem_of_ordered hS hrk
    rw [h128 hkey] at hmem
    exact expand128_redundant delta _ hmem

/-! ## `KSCHED` (R75) -/

/-- The key `KSCHED` reads is the first `klen` bytes of `KEYB`. -/
theorem keyBytes_eq_take (L : KeyLength) (s : State) : keyBytes L s = s.keyb.toList.take L.bytes := by
  have hle := L.bytes_le
  refine List.ext_getElem (by simp; omega) fun a h _ => ?_
  rw [getElem_keyBytes L s a h, List.getElem_take, Vector.getElem_toList]

section
variable (delta : Vector Word 8) {klen : BitVec 6} {dir : BitVec 2} (s : State)

theorem kschedWith_of_bad_length (hlen : klen.toNat ∉ [16, 24, 32]) :
    kschedWith delta klen dir s = .next (failed 1 s) := by
  have hnone : keyLengthOf klen = none := keyLengthOf_eq_none.mpr (by simpa using hlen)
  rw [kschedWith, hnone]
  exact raiseErr_eq .keyLen s

variable {L : KeyLength} (hL : klen.toNat = L.bytes)
include hL

theorem kschedWith_of_bad_direction (hdir : dir ∉ [0, 1]) : kschedWith delta klen dir s = .next (failed 2 s) := by
  obtain ⟨EK, -, -, hbuild⟩ := buildSchedule_eq_ordered delta (length_keyBytes L s)
  rw [kschedWith, keyLengthOf_eq_some.mpr hL]
  dsimp only
  rw [hbuild, ordered_of_notMem EK hdir]
  exact raiseErr_eq .dir s

/-- With a legal length and direction the schedule of the first `klen` bytes of `KEYB` is built and installed. -/
theorem kschedWith_of_legal (hdir : dir ∈ [0, 1]) :
    ∃ S, buildSchedule delta (s.keyb.toList.take klen.toNat) dir = .ok S ∧ S.length = L.rounds ∧
      kschedWith delta klen dir s = done (installSchedule S dir s) := by
  obtain ⟨EK, -, -, hbuild⟩ := buildSchedule_eq_ordered delta (length_keyBytes L s)
  obtain ⟨S, hS⟩ : ∃ S, ordered EK dir = .ok S := by
    have hdir' : dir = 0 ∨ dir = 1 := by simpa using hdir
    rcases hdir' with rfl | rfl
    exacts [⟨_, ordered_encrypt EK⟩, ⟨_, ordered_decrypt EK⟩]
  have hbuilt : buildSchedule delta (keyBytes L s) dir = .ok S := (hbuild dir).trans hS
  refine ⟨S, ?_, (buildSchedule_eq_ok (length_keyBytes L s) hbuilt).1, ?_⟩
  · rw [hL, ← keyBytes_eq_take, hbuilt]
  · rw [kschedWith, keyLengthOf_eq_some.mpr hL]
    dsimp only
    rw [hbuilt]

end

/-- Settles O36: the three ends of `KSCHED`, the rows by what a schedule store leaves. -/
theorem kschedBuildsTheSchedule : Obligations.KschedBuildsTheSchedule := by
  unfold Obligations.KschedBuildsTheSchedule
  refine ⟨fun klen dir => (toNat_encode (.ksched klen dir)).trans (Nat.add_right_comm ..),
    illegalWords_of_reservedField (by decide) (by decide),
    fun klen dir s => (execWith_default (.ksched klen dir) s).symm, execWith_ksched, fun delta klen dir s => ?ends⟩
  case ends =>
    have hdirections : dir.toNat ∈ [0, 1] ↔ dir ∈ [0, 1] := by revert dir; decide
    split
    next hlen => exact kschedWith_of_bad_length delta s hlen
    next hlen =>
      obtain ⟨L, hL⟩ := mem_legal_lengths_iff.mp (not_not.mp hlen)
      split
      next hdir => exact kschedWith_of_bad_direction delta s hL (mt hdirections.mpr hdir)
      next hdir =>
        obtain ⟨S, hbuild, hrounds, hend⟩ := kschedWith_of_legal delta s hL (hdirections.mp (not_not.mp hdir))
        have hcount : ∀ L' : KeyLength, klen.toNat = L'.bytes → S.length = L'.rounds := by
          intro L' hL'
          cases (keyLengthOf_eq_some.mpr hL).symm.trans (keyLengthOf_eq_some.mpr hL')
          exact hrounds
        refine ⟨_, S, storeSchedule S s.sched, rfl, hbuild, hend, fun h => hcount .k128 (h ▸ rfl),
          fun h => hcount .k192 (h ▸ rfl), fun h => hcount .k256 (h ▸ rfl), fun i => ?_⟩
        have hrow := getElem_storeSchedule S s.sched i.val i.isLt
        split
        next h => exact hrow.trans (dif_pos h)
        next h => exact hrow.trans (dif_neg h)

/-- The readable rows after a schedule of a key length's number of rounds has been installed are that schedule (R19, R75). -/
theorem schedule_installSchedule {L : KeyLength} {S : KeySchedule} (hS : S.length = L.rounds) (dir : BitVec 2) (s : State) :
    (installSchedule S dir s).schedule = S := by
  have hle : L.rounds ≤ 32 := by cases L <;> decide
  refine List.ext_getElem ?length fun i h hi => ?row
  case length =>
    rw [length_schedule, installSchedule_status, Status.scheduleBuilt_snr, hS, toNat_ofNat_rounds, min_eq_left hle]
  case row =>
    rw [getElem_schedule _ i h]
    simp only [installSchedule_sched]
    rw [getElem_storeSchedule, dif_pos hi]

/-- Settles O37: the success of O36, whose rows are then the readable ones. -/
theorem kschedSucceeds : Obligations.KschedSucceeds := by
  unfold Obligations.KschedSucceeds
  intro klen dir s hklen hdir
  have hlen : klen.toNat ∈ [16, 24, 32] := List.mem_map_of_mem (f := BitVec.toNat) hklen
  obtain ⟨L, hL⟩ := mem_legal_lengths_iff.mp hlen
  obtain ⟨S, hbuild, hrounds, hend⟩ := kschedWith_of_legal Config.delta s hL hdir
  refine ⟨_, hend, rfl, rfl, ?sdir, rfl, hbuild.trans (congrArg _ (schedule_installSchedule hrounds dir s).symm)⟩
  case sdir =>
    have hdirs : ∀ dir ∈ ([0, 1] : List (BitVec 2)), dir.getLsbD 0 = decide (dir = 1) := by decide
    exact hdirs dir hdir

end Sys2Proof.Machine
end

section
/-! PROOFS. The Round Transform (`42_round_transform.md`). A step mixes two words and two key words into a third, and each mix can
be solved for its second word (`rotateLeft_mix_eq_iff`, `rotateRight_mix_eq_iff`, from R55). Word by word that makes
`encryptRound x rk = y` and `decryptRound y rk = x` the same equation, which is R78 both ways. Statements O38 to O40. -/

namespace Sys2Proof.Machine

/-! ## One mixed word, solved for what went into it -/

theorem rotateLeft_eq_iff {v w : Word} {r : Nat} : rotateLeft v r = w ↔ rotateRight w r = v :=
  ⟨fun h => h ▸ rotateRight_rotateLeft v r, fun h => h ▸ rotateLeft_rotateRight w r⟩

theorem rotateRight_eq_iff {v w : Word} {r : Nat} : rotateRight v r = w ↔ rotateLeft w r = v :=
  rotateLeft_eq_iff.symm

/-- The sum of a step, solved for its second word; the carry that is dropped is the borrow that is dropped (R77). -/
theorem add_xor_eq_iff {p b k w : Word} : p + (b ^^^ k) = w ↔ (w - p) ^^^ k = b := by
  constructor
  · rintro rfl
    rw [add_sub_cancel_left, BitVec.xor_assoc, BitVec.xor_self, BitVec.xor_zero]
  · rintro rfl
    rw [BitVec.xor_assoc, BitVec.xor_self, BitVec.xor_zero, add_sub_cancel]

theorem rotateLeft_mix_eq_iff {p b k w : Word} {r : Nat} :
    rotateLeft (p + (b ^^^ k)) r = w ↔ (rotateRight w r - p) ^^^ k = b := by
  rw [rotateLeft_eq_iff, eq_comm, add_xor_eq_iff]

theorem rotateRight_mix_eq_iff {p b k w : Word} {r : Nat} :
    rotateRight (p + (b ^^^ k)) r = w ↔ (rotateLeft w r - p) ^^^ k = b := by
  rw [rotateRight_eq_iff, eq_comm, add_xor_eq_iff]

/-! ## The two round functions, word by word -/

theorem words_eq_iff {x y : Vector Word 4} :
    x = y ↔ x[0] = y[0] ∧ x[1] = y[1] ∧ x[2] = y[2] ∧ x[3] = y[3] := by
  constructor
  · rintro rfl
    exact ⟨rfl, rfl, rfl, rfl⟩
  · rintro ⟨h0, h1, h2, h3⟩
    refine Vector.ext fun i hi => ?_
    match i, hi with
    | 0, _ => exact h0
    | 1, _ => exact h1
    | 2, _ => exact h2
    | 3, _ => exact h3

/-- The four formulas of R76. -/
theorem encryptRound_words (x : Vector Word 4) (rk : RoundKey) :
    (encryptRound x rk)[0] = rotateLeft ((x[0] ^^^ rk[0]) + (x[1] ^^^ rk[1])) 9 ∧
    (encryptRound x rk)[1] = rotateRight ((x[1] ^^^ rk[2]) + (x[2] ^^^ rk[3])) 5 ∧
    (encryptRound x rk)[2] = rotateRight ((x[2] ^^^ rk[4]) + (x[3] ^^^ rk[5])) 3 ∧
    (encryptRound x rk)[3] = x[0] :=
  ⟨rfl, rfl, rfl, rfl⟩

/-- The chain of R77: each word of the result from the one before it. -/
theorem decryptRound_words (y : Vector Word 4) (rk : RoundKey) :
    (decryptRound y rk)[0] = y[3] ∧
    (decryptRound y rk)[1] = (rotateRight y[0] 9 - ((decryptRound y rk)[0] ^^^ rk[0])) ^^^ rk[1] ∧
    (decryptRound y rk)[2] = (rotateLeft y[1] 5 - ((decryptRound y rk)[1] ^^^ rk[2])) ^^^ rk[3] ∧
    (decryptRound y rk)[3] = (rotateLeft y[2] 3 - ((decryptRound y rk)[2] ^^^ rk[4])) ^^^ rk[5] :=
  ⟨rfl, rfl, rfl, rfl⟩

/-- The result of a decryption step is the one `x` that meets the equations of the chain. -/
theorem decryptRound_eq_iff {x y : Vector Word 4} {rk : RoundKey} : decryptRound y rk = x ↔
    y[3] = x[0] ∧
    (rotateRight y[0] 9 - (x[0] ^^^ rk[0])) ^^^ rk[1] = x[1] ∧
    (rotateLeft y[1] 5 - (x[1] ^^^ rk[2])) ^^^ rk[3] = x[2] ∧
    (rotateLeft y[2] 3 - (x[2] ^^^ rk[4])) ^^^ rk[5] = x[3] := by
  obtain ⟨d0, d1, d2, d3⟩ := decryptRound_words y rk
  constructor
  · rintro rfl
    exact ⟨d0.symm, d1.symm, d2.symm, d3.symm⟩
  · rintro ⟨h0, h1, h2, h3⟩
    rw [← d0] at h0
    rw [← h0, ← d1] at h1
    rw [← h1, ← d2] at h2
    rw [← h2, ← d3] at h3
    exact words_eq_iff.mpr ⟨h0, h1, h2, h3⟩

/-- An encryption step leads from `x` to `y` exactly when a decryption step under the same round key leads back. -/
theorem encryptRound_eq_iff {x y : Vector Word 4} {rk : RoundKey} : encryptRound x rk = y ↔ decryptRound y rk = x := by
  obtain ⟨e0, e1, e2, e3⟩ := encryptRound_words x rk
  rw [words_eq_iff, decryptRound_eq_iff, e0, e1, e2, e3, rotateLeft_mix_eq_iff, rotateRight_mix_eq_iff,
    rotateRight_mix_eq_iff, eq_comm (a := y[3])]
  constructor
  · rintro ⟨h1, h2, h3, h0⟩
    exact ⟨h0, h1, h2, h3⟩
  · rintro ⟨h0, h1, h2, h3⟩
    exact ⟨h1, h2, h3, h0⟩

theorem decryptRound_encryptRound (x : Vector Word 4) (rk : RoundKey) : decryptRound (encryptRound x rk) rk = x :=
  encryptRound_eq_iff.mp rfl

theorem encryptRound_decryptRound (x : Vector Word 4) (rk : RoundKey) : encryptRound (decryptRound x rk) rk = x :=
  encryptRound_eq_iff.mpr rfl

/-- Settles O38: the two readings of `encryptRound_eq_iff`. -/
theorem roundsAreInverse : Obligations.RoundsAreInverse := by
  unfold Obligations.RoundsAreInverse
  exact fun x rk => ⟨decryptRound_encryptRound x rk, encryptRound_decryptRound x rk⟩

/-! ## `ENCR` and `DECR` -/

theorem exec_encr (s : State) : exec .encr s = .next { s with x := encryptRound s.x s.rkr, rsp := some ⟨0, 0⟩ } := rfl

theorem exec_decr (s : State) : exec .decr s = .next { s with x := decryptRound s.x s.rkr, rsp := some ⟨0, 0⟩ } := rfl

/-- Settles O39: one encryption step on `X`, whose words are the formulas of R76. -/
theorem encrAppliesOneRound : Obligations.EncrAppliesOneRound := by
  unfold Obligations.EncrAppliesOneRound
  exact ⟨encode_eq_ofNat .encr, illegalWords_of_reservedField (by decide) (by decide),
    fun s => ⟨_, exec_encr s, encryptRound_words s.x s.rkr⟩⟩

/-- Settles O40: one decryption step on `X`, whose words are the chain of R77. Neither command writes `RKR`, so the second of
the two steps runs under the round key of the first. -/
theorem decrAppliesOneInverseRound : Obligations.DecrAppliesOneInverseRound := by
  unfold Obligations.DecrAppliesOneInverseRound
  exact ⟨encode_eq_ofNat .decr, illegalWords_of_reservedField (by decide) (by decide),
    fun s => ⟨_, exec_decr s, decryptRound_words s.x s.rkr⟩,
    fun s => ⟨⟨_, _, exec_encr s, exec_decr _, decryptRound_encryptRound s.x s.rkr⟩,
      ⟨_, _, exec_decr s, exec_encr _, encryptRound_decryptRound s.x s.rkr⟩⟩⟩

end Sys2Proof.Machine
end

section
/-! PROOFS. The Block Driver (`43_block_driver.md`). Two facts carry it: a block is its words (both ways), and rounds that each can
be undone are undone by walking the schedule backwards (`foldRounds_reverse_of_undo`), which is the order of the Decrypt schedule
(R72). Each block command is one equation of `exec`, and the words after `n` rounds (`wordsAfter`) are what R86 and R87 count.
Statements O41 to O44. -/

namespace Sys2Proof.Machine

/-! ## A block and its words -/

/-- Byte `a` of a block is bits `8(a mod 4)+7..8(a mod 4)` of word `a / 4` (R82, R52). -/
theorem getElem_wordsToBlock_eq_bits (x : Vector Word 4) (a : Fin 16) :
    (wordsToBlock x)[a] = (x[a.val / 4]).extractLsb' (8 * (a.val % 4)) 8 := by
  rw [Fin.getElem_fin, getElem_wordsToBlock, getElem_wordToBytes]

/-- Word `j` of the bytes of `x` is the word of the four bytes of `x[j]`. -/
theorem blockToWords_wordsToBlock (x : Vector Word 4) : blockToWords (wordsToBlock x) = x := by
  refine Vector.ext fun j hj => ?_
  have hword : ∀ r : Nat, (4 * j + r) % 4 = r % 4 ∧ (r < 4 → (4 * j + r) / 4 = j) := by omega
  calc (blockToWords (wordsToBlock x))[j]
    _ = groupToWord (wordToBytes x[j]) := by
      simp [getElem_blockToWords, getElem_wordsToBlock, groupToWord, hword]
    _ = x[j] := groupToWord_wordToBytes x[j]

/-- Byte `n` of the words of `b` is byte `n mod 4` of the group `n / 4` of `b`. -/
theorem wordsToBlock_blockToWords (b : Vector Byte 16) : wordsToBlock (blockToWords b) = b := by
  refine Vector.ext fun n hn => ?_
  rw [getElem_wordsToBlock]
  simp only [blockToWords, getElem_tabulate, wordToBytes_groupToWord, getElem_memRead, Nat.div_add_mod]

/-! ## Undoing rounds (R84) -/

section
variable {round undo : Vector Word 4 → RoundKey → Vector Word 4} (hundo : ∀ x rk, undo (round x rk) rk = x)
include hundo

/-- The last round is undone first. -/
theorem foldRounds_reverse_of_undo (S : KeySchedule) (x : Vector Word 4) :
    foldRounds undo S.reverse (foldRounds round S x) = x := by
  induction S generalizing x with
  | nil => rfl
  | cons rk S ih =>
    calc foldRounds undo (rk :: S).reverse (foldRounds round (rk :: S) x)
      _ = undo (foldRounds undo S.reverse (foldRounds round S (round x rk))) rk := by
        simp only [foldRounds, List.reverse_cons, List.foldl_append, List.foldl_cons, List.foldl_nil]
      _ = undo (round x rk) rk := by rw [ih]
      _ = x := hundo x rk

/-- The same over the bytes of a block. -/
theorem wordsToBlock_foldRounds_reverse (S : KeySchedule) (b : Vector Byte 16) :
    wordsToBlock (foldRounds undo S.reverse (blockToWords (wordsToBlock (foldRounds round S (blockToWords b))))) = b := by
  rw [blockToWords_wordsToBlock, foldRounds_reverse_of_undo hundo, wordsToBlock_blockToWords]

end

theorem decryptBlock_encryptBlock_reverse (S : KeySchedule) (b : Vector Byte 16) :
    decryptBlock (encryptBlock b S) S.reverse = b :=
  wordsToBlock_foldRounds_reverse decryptRound_encryptRound S b

theorem encryptBlock_decryptBlock_reverse (S : KeySchedule) (b : Vector Byte 16) :
    encryptBlock (decryptBlock b S) S.reverse = b :=
  wordsToBlock_foldRounds_reverse encryptRound_decryptRound S b

/-- The Decrypt schedule of a key is its Encrypt schedule backwards, as lists (R72). -/
theorem decryptSchedule_eq_reverse {delta : Vector Word 8} {key : List Byte} {E D : KeySchedule}
    (hE : buildSchedule delta key 0 = .ok E) (hD : buildSchedule delta key 1 = .ok D) : D = E.reverse := by
  by_cases hlen : key.length ∈ [16, 24, 32]
  · obtain ⟨L, hL⟩ := mem_legal_lengths_iff.mp hlen
    obtain ⟨EK, -, -, hbuild⟩ := buildSchedule_eq_ordered delta hL
    cases (hbuild 0).symm.trans hE
    cases (hbuild 1).symm.trans hD
    rfl
  · cases (buildSchedule_bad_length delta key 0 (by simpa using hlen)).symm.trans hE

/-- Settles O41: the Decrypt schedule is the Encrypt schedule backwards, and the Encrypt schedule the Decrypt schedule
backwards. -/
theorem blockRoundTrip : Obligations.BlockRoundTrip := by
  unfold Obligations.BlockRoundTrip
  intro delta key E D P hE hD
  obtain rfl := decryptSchedule_eq_reverse hE hD
  have hback := encryptBlock_decryptBlock_reverse E.reverse P
  rw [List.reverse_reverse] at hback
  exact ⟨decryptBlock_encryptBlock_reverse E P, hback⟩

/-! ## The words after each round (R86, R87) -/

/-- The words of `BLK` after the first `n` readable rows of `SCHED`. -/
def wordsAfter (round : Vector Word 4 → RoundKey → Vector Word 4) (s : State) (n : Nat) : Vector Word 4 :=
  foldRounds round (s.schedule.take n) (blockToWords s.blk)

section
variable (round : Vector Word 4 → RoundKey → Vector Word 4) (s : State)

theorem wordsAfter_zero : wordsAfter round s 0 = blockToWords s.blk := rfl

theorem wordsAfter_succ (i : Fin 32) (hi : i.val < s.status.snr.toNat) :
    wordsAfter round s (i.val + 1) = round (wordsAfter round s i.val) s.sched[i] := by
  have hrow : i.val < s.schedule.length := by rw [length_schedule]; omega
  rw [wordsAfter, foldRounds_take_succ round _ _ _ hrow, getElem_schedule s i.val hrow]
  rfl

theorem wordsAfter_snr : wordsAfter round s s.status.snr.toNat = foldRounds round s.schedule (blockToWords s.blk) := by
  rw [wordsAfter, List.take_of_length_le (by rw [length_schedule]; omega)]

/-- Everything R86 and R87 say of the data that a block command leaves, for either round function. No bound on `SNR` is needed:
there are only 32 rows to read. -/
theorem blockCommand_data {X : Vector Word 4} (hX : X = foldRounds round s.schedule (blockToWords s.blk)) :
    ∃ w : Nat → Vector Word 4,
      (∀ j : Fin 4, (w 0)[j] =
        bytesToWord s.blk[4 * j.val] s.blk[4 * j.val + 1] s.blk[4 * j.val + 2] s.blk[4 * j.val + 3]) ∧
      (∀ i : Fin 32, i.val < s.status.snr.toNat → w (i.val + 1) = round (w i.val) s.sched[i]) ∧
      X = w s.status.snr.toNat ∧
      ∀ a : Fin 16, (wordsToBlock X)[a] = (X[a.val / 4]).extractLsb' (8 * (a.val % 4)) 8 := by
  refine ⟨wordsAfter round s, fun j => ?start, wordsAfter_succ round s, hX.trans (wordsAfter_snr round s).symm,
    getElem_wordsToBlock_eq_bits X⟩
  case start =>
    rw [wordsAfter_zero]
    exact getElem_blockToWords s.blk j.val j.isLt

end

/-! ## `ENCB` and `DECB` -/

/-- `ENCB`: the checks in their order, else the block encrypted in place (R86). -/
theorem exec_encb (s : State) : exec .encb s =
    if s.status.svalid = false then .next (failed 4 s)
    else if s.status.sdir = true then .next (failed 5 s)
    else .next { s with
      x := foldRounds encryptRound s.schedule (blockToWords s.blk), blk := encryptBlock s.blk s.schedule
      rsp := some ⟨0, 0⟩ } := by
  change execEncb s = _
  rw [execEncb, raiseErr_eq, raiseErr_eq]
  cases s.status.svalid <;> cases s.status.sdir <;> rfl

/-- `DECB`: as `ENCB` with the direction test inverted and `decryptRound` (R87). -/
theorem exec_decb (s : State) : exec .decb s =
    if s.status.svalid = false then .next (failed 4 s)
    else if s.status.sdir = false then .next (failed 5 s)
    else .next { s with
      x := foldRounds decryptRound s.schedule (blockToWords s.blk), blk := decryptBlock s.blk s.schedule
      rsp := some ⟨0, 0⟩ } := by
  change execDecb s = _
  rw [execDecb, raiseErr_eq, raiseErr_eq]
  cases s.status.svalid <;> cases s.status.sdir <;> rfl

/-- Settles O42: the three ends of `exec_encb`, the data by `blockCommand_data`. -/
theorem encbEncryptsTheBlock : Obligations.EncbEncryptsTheBlock := by
  unfold Obligations.EncbEncryptsTheBlock
  refine ⟨encode_eq_ofNat .encb, illegalWords_of_reservedField (by decide) (by decide), fun s _ => ?ends⟩
  case ends =>
    rw [exec_encb]
    split_ifs
    · rfl
    · rfl
    · obtain ⟨w, hstart, hround, hlast, hbytes⟩ := blockCommand_data encryptRound s rfl
      exact ⟨w, _, _, rfl, hstart, hround, hlast, hbytes, rfl⟩

/-- Settles O43: the three ends of `exec_decb`, the data by `blockCommand_data`. -/
theorem decbDecryptsTheBlock : Obligations.DecbDecryptsTheBlock := by
  unfold Obligations.DecbDecryptsTheBlock
  refine ⟨encode_eq_ofNat .decb, illegalWords_of_reservedField (by decide) (by decide), fun s _ => ?ends⟩
  case ends =>
    rw [exec_decb]
    split_ifs
    · rfl
    · rfl
    · obtain ⟨w, hstart, hround, hlast, hbytes⟩ := blockCommand_data decryptRound s rfl
      exact ⟨w, _, _, rfl, hstart, hround, hlast, hbytes, rfl⟩

/-! ## The round trip on the machine -/

/-- `KSCHED` with a legal length and direction, by what the block commands and the host see of it: the schedule of the key in
`KEYB` is readable, the direction recorded, and the data stays (R75). -/
theorem execWith_ksched_of_legal (delta : Vector Word 8) {klen : BitVec 6} {dir : BitVec 2} (s : State)
    (hklen : klen ∈ [16, 24, 32]) (hdir : dir ∈ [0, 1]) :
    ∃ t, execWith delta (.ksched klen dir) s = .next t ∧
      buildSchedule delta (s.keyb.toList.take klen.toNat) dir = .ok t.schedule ∧
      t.status.svalid = true ∧ t.status.sdir = dir.getLsbD 0 ∧ t.rsp = some ⟨0, 0⟩ ∧
      t.blk = s.blk ∧ t.keyb = s.keyb ∧ t.rkr = s.rkr ∧ t.status.err = s.status.err := by
  have hlen : klen.toNat ∈ [16, 24, 32] := List.mem_map_of_mem (f := BitVec.toNat) hklen
  obtain ⟨L, hL⟩ := mem_legal_lengths_iff.mp hlen
  obtain ⟨S, hbuild, hrounds, hend⟩ := kschedWith_of_legal delta s hL hdir
  exact ⟨_, hend, hbuild.trans (congrArg _ (schedule_installSchedule hrounds dir s).symm), rfl, rfl, rfl, rfl, rfl, rfl, rfl⟩

/-- `ENCB` under an Encrypt schedule, by the same (R86). -/
theorem execWith_encb_of_encrypt (delta : Vector Word 8) {s : State} (hvalid : s.status.svalid = true)
    (hdir : s.status.sdir = false) :
    ∃ t, execWith delta .encb s = .next t ∧ t.blk = encryptBlock s.blk s.schedule ∧ t.rsp = some ⟨0, 0⟩ ∧
      t.keyb = s.keyb ∧ t.rkr = s.rkr ∧ t.status.err = s.status.err := by
  rw [execWith_of_ne delta .encb s nofun, exec_encb, if_neg (by simp [hvalid]), if_neg (by simp [hdir])]
  exact ⟨_, rfl, rfl, rfl, rfl, rfl, rfl⟩

/-- `DECB` under a Decrypt schedule, by the same (R87). -/
theorem execWith_decb_of_decrypt (delta : Vector Word 8) {s : State} (hvalid : s.status.svalid = true)
    (hdir : s.status.sdir = true) :
    ∃ t, execWith delta .decb s = .next t ∧ t.blk = decryptBlock s.blk s.schedule ∧ t.rsp = some ⟨0, 0⟩ ∧
      t.keyb = s.keyb ∧ t.rkr = s.rkr ∧ t.status.err = s.status.err := by
  rw [execWith_of_ne delta .decb s nofun, exec_decb, if_neg (by simp [hvalid]), if_neg (by simp [hdir])]
  exact ⟨_, rfl, rfl, rfl, rfl, rfl, rfl⟩

/-- Settles O44: both schedules are of the same key, since neither `KSCHED` nor `ENCB` writes `KEYB`, so O41 applies to the
block. The second clause is the first at the default table. -/
theorem machineRoundTrip : Obligations.MachineRoundTrip := by
  unfold Obligations.MachineRoundTrip
  refine (and_iff_left_of_imp fun hall klen s hklen => ?default).mpr fun delta klen s hklen => ?anyTable
  case default => simpa only [execWith_default] using hall Config.delta klen s hklen
  case anyTable =>
    obtain ⟨s1, hrun1, hE, hvalid1, hdir1, hrsp1, hblk1, hkeyb1, hrkr1, herr1⟩ :=
      execWith_ksched_of_legal delta (dir := 0) s hklen (by decide)
    obtain ⟨s2, hrun2, hblk2, hrsp2, hkeyb2, hrkr2, herr2⟩ := execWith_encb_of_encrypt delta hvalid1 hdir1
    obtain ⟨s3, hrun3, hD, hvalid3, hdir3, hrsp3, hblk3, hkeyb3, hrkr3, herr3⟩ :=
      execWith_ksched_of_legal delta (dir := 1) s2 hklen (by decide)
    obtain ⟨s4, hrun4, hblk4, hrsp4, hkeyb4, hrkr4, herr4⟩ := execWith_decb_of_decrypt delta hvalid3 hdir3
    rw [hkeyb2, hkeyb1] at hD
    obtain ⟨hblock, -⟩ := blockRoundTrip delta _ s1.schedule s3.schedule s.blk hE hD
    refine ⟨s1, s2, s3, s4, hrun1, hrun2, hrun3, hrun4, hrsp1, hrsp2, hrsp3, hrsp4, ?block, ?key, ?roundKey, ?error⟩
    case block => rw [hblk4, hblk3, hblk2, hblk1, hblock]
    case key => rw [hkeyb4, hkeyb3, hkeyb2, hkeyb1]
    case roundKey => rw [hrkr4, hrkr3, hrkr2, hrkr1]
    case error => rw [herr4, herr3, herr2, herr1]

end Sys2Proof.Machine
end

section
/-! PROOFS. The access commands (`44_access.md`). Each command is one equation of `exec`, the checks of `WRRK`, `RDRK`, `LDRK` and
`RDSK` in their order (R94 to R97); what a write does to one byte of a buffer or one word of `X` or `RKR` is a lemma about that
write, and what O16 says of a stored word is about the group that `W2B` writes. Statements O13 to O22. -/

namespace Sys2Proof.Machine

/-! ## The byte buffers `KEYB` and `BLK` -/

theorem exec_wrkb (a : BitVec 5) (s : State) : exec (.wrkb a) s =
    .next { s with keyb := memWrite s.keyb (keyByteIndex a) #v[s.wdata.extractLsb' 0 8], rsp := some ⟨0, 0⟩ } :=
  rfl

theorem exec_rdkb (a : BitVec 5) (s : State) : exec (.rdkb a) s =
    .next { s with rsp := some ⟨0, s.keyb[keyByteIndex a].setWidth 32⟩ } :=
  rfl

theorem exec_wrbb (a : BitVec 4) (s : State) : exec (.wrbb a) s =
    .next { s with blk := memWrite s.blk (blockByteIndex a) #v[s.wdata.extractLsb' 0 8], rsp := some ⟨0, 0⟩ } :=
  rfl

theorem exec_rdbb (a : BitVec 4) (s : State) : exec (.rdbb a) s =
    .next { s with rsp := some ⟨0, s.blk[blockByteIndex a].setWidth 32⟩ } :=
  rfl

/-- Zero extension keeps the number (R10). -/
theorem toNat_setWidth_byte (b : Byte) : (b.setWidth 32).toNat = b.toNat :=
  BitVec.toNat_setWidth_of_le (by decide)

/-- Settles O13: the one-byte write of `KEYB`. -/
theorem wrkbWritesOneKeyByte : Obligations.WrkbWritesOneKeyByte := by
  unfold Obligations.WrkbWritesOneKeyByte
  exact ⟨fun a => toNat_encode (.wrkb a), illegalWords_of_reservedField (by decide) (by decide),
    fun a s => ⟨_, exec_wrkb a s, fun b => getElem_memWrite_one s.keyb a.toNat _ b.val b.isLt⟩⟩

/-- Settles O14: the byte read from `KEYB`, zero-extended. -/
theorem rdkbReadsOneKeyByte : Obligations.RdkbReadsOneKeyByte := by
  unfold Obligations.RdkbReadsOneKeyByte
  exact ⟨fun a => toNat_encode (.rdkb a), illegalWords_of_reservedField (by decide) (by decide),
    fun a s => ⟨_, exec_rdkb a s, toNat_setWidth_byte _⟩⟩

/-- Settles O15: the one-byte write of `BLK`. -/
theorem wrbbWritesOneBlockByte : Obligations.WrbbWritesOneBlockByte := by
  unfold Obligations.WrbbWritesOneBlockByte
  exact ⟨fun a => toNat_encode (.wrbb a), illegalWords_of_reservedField (by decide) (by decide),
    fun a s => ⟨_, exec_wrbb a s, fun b => getElem_memWrite_one s.blk a.toNat _ b.val b.isLt⟩⟩

/-- Offset `4j + n` of a block after the bytes of `w` have been stored as group `j`: bits `8n+7..8n` of `w` (R30). -/
theorem getElem_memWrite_wordToBytes (B : Vector Byte 16) (j n : BitVec 2) (w : Word) :
    (memWrite B (groupOffset j) (wordToBytes w))[blockByteIndex (j ++ n)] = w.extractLsb' (8 * n.toNat) 8 := by
  have hoffset : (j ++ n).toNat = 4 * j.toNat + n.toNat := toNat_append_eq_add j n
  have hgroup : (j ++ n).toNat / 4 = j.toNat := by omega
  have hplace : (j ++ n).toNat % 4 = n.toNat := by omega
  rw [getElem_memWrite_group, if_pos hgroup, getElem_wordToBytes, hplace]

/-- Settles O16: the byte read from `BLK`, zero-extended; after `W2B` it is a byte of the stored word. -/
theorem rdbbReadsOneBlockByte : Obligations.RdbbReadsOneBlockByte := by
  unfold Obligations.RdbbReadsOneBlockByte
  refine ⟨fun a => toNat_encode (.rdbb a), illegalWords_of_reservedField (by decide) (by decide),
    fun a s => ⟨_, exec_rdbb a s, toNat_setWidth_byte _⟩, fun j n s => ?stored⟩
  case stored =>
    exact ⟨_, _, _, exec_w2b j s, exec_rdbb (j ++ n) _, rfl,
      congrArg (BitVec.setWidth 32) (getElem_memWrite_wordToBytes s.blk j n _)⟩

/-! ## The cipher state `X` -/

theorem exec_wrx (j : BitVec 2) (s : State) : exec (.wrx j) s =
    .next { s with x := s.x.set (wordIndex j) s.wdata, rsp := some ⟨0, 0⟩ } :=
  rfl

theorem exec_rdx (j : BitVec 2) (s : State) : exec (.rdx j) s =
    .next { s with rsp := some ⟨0, s.x[j.toNat]'(by omega)⟩ } :=
  rfl

/-- Settles O17: the write of `X[j]`. -/
theorem wrxWritesOneStateWord : Obligations.WrxWritesOneStateWord := by
  unfold Obligations.WrxWritesOneStateWord
  exact ⟨fun j => toNat_encode (.wrx j), illegalWords_of_reservedField (by decide) (by decide),
    fun j s => ⟨_, exec_wrx j s, getElem_set_wordIndex s.x j s.wdata⟩⟩

/-- Settles O18: the equation of `RDX`. -/
theorem rdxReadsOneStateWord : Obligations.RdxReadsOneStateWord := by
  unfold Obligations.RdxReadsOneStateWord
  exact ⟨fun j => toNat_encode (.rdx j), illegalWords_of_reservedField (by decide) (by decide), exec_rdx⟩

/-! ## The round-key operand `RKR` -/

/-- `WRRK`: the word written for `k` = 0..5, else `ERR_INDEX` (R94). -/
theorem exec_wrrk (k : BitVec 3) (s : State) : exec (.wrrk k) s =
    if h : k.toNat < 6 then .next { s with rkr := s.rkr.set k.toNat s.wdata, rsp := some ⟨0, 0⟩ }
    else .next (failed 6 s) := by
  change execWrrk k s = _
  rw [execWrrk, raiseErr_eq]
  rcases roundKeyIndex_eq k with ⟨hk, hindex⟩ | ⟨hk, hindex⟩
  · rw [hindex, dif_pos hk]; rfl
  · rw [hindex, dif_neg (by omega)]; rfl

/-- `RDRK`: the word read for `k` = 0..5, else `ERR_INDEX` (R95). -/
theorem exec_rdrk (k : BitVec 3) (s : State) : exec (.rdrk k) s =
    if h : k.toNat < 6 then .next { s with rsp := some ⟨0, s.rkr[k.toNat]⟩ } else .next (failed 6 s) := by
  change execRdrk k s = _
  rw [execRdrk, raiseErr_eq]
  rcases roundKeyIndex_eq k with ⟨hk, hindex⟩ | ⟨hk, hindex⟩
  · rw [hindex, dif_pos hk]; rfl
  · rw [hindex, dif_neg (by omega)]; rfl

/-- Settles O19: the two ends of `exec_wrrk`. -/
theorem wrrkWritesOneRoundKeyWord : Obligations.WrrkWritesOneRoundKeyWord := by
  unfold Obligations.WrrkWritesOneRoundKeyWord
  refine ⟨fun k => toNat_encode (.wrrk k), illegalWords_of_reservedField (by decide) (by decide), fun k s => ?ends⟩
  case ends =>
    rw [exec_wrrk]
    split
    next hk => exact dif_neg (by omega)
    next hk =>
      refine ⟨_, dif_pos (by omega), fun m => ?_⟩
      simp only [Fin.getElem_fin, Vector.getElem_set, eq_comm]

/-- Settles O20: the two ends of `exec_rdrk`. -/
theorem rdrkReadsOneRoundKeyWord : Obligations.RdrkReadsOneRoundKeyWord := by
  unfold Obligations.RdrkReadsOneRoundKeyWord
  refine ⟨fun k => toNat_encode (.rdrk k), illegalWords_of_reservedField (by decide) (by decide), fun k s => ?ends⟩
  case ends =>
    split
    next hk => exact (exec_rdrk k s).trans (dif_pos hk)
    next hk => exact (exec_rdrk k s).trans (dif_neg hk)

/-! ## The schedule `SCHED` -/

/-- `LDRK`: the checks in their order, else row `i` into `RKR`, whatever `SDIR` is (R96). -/
theorem exec_ldrk (i : BitVec 5) (s : State) : exec (.ldrk i) s =
    if s.status.svalid = false then .next (failed 4 s)
    else if s.status.snr.toNat ≤ i.toNat then .next (failed 6 s)
    else .next { s with rkr := s.sched[i.toNat]'(by omega), rsp := some ⟨0, 0⟩ } := by
  change execLdrk i s = _
  rw [execLdrk, raiseErr_eq, raiseErr_eq]
  rcases scheduleRow_eq s.status i with ⟨hi, hrow⟩ | ⟨hi, hrow⟩
  · rw [hrow, if_neg (by omega : ¬ s.status.snr.toNat ≤ i.toNat)]
    cases s.status.svalid <;> rfl
  · rw [hrow, if_pos hi]
    cases s.status.svalid <;> rfl

/-- `RDSK`: the checks in their order, else word `k` of row `i` (R97). -/
theorem exec_rdsk (i : BitVec 5) (k : BitVec 3) (s : State) : exec (.rdsk i k) s =
    if s.status.svalid = false then .next (failed 4 s)
    else if h : i.toNat < s.status.snr.toNat ∧ k.toNat < 6 then
      .next { s with rsp := some ⟨0, (s.sched[i.toNat]'(by omega))[k.toNat]⟩ }
    else .next (failed 6 s) := by
  change execRdsk i k s = _
  rw [execRdsk, raiseErr_eq, raiseErr_eq]
  rcases scheduleRow_eq s.status i with ⟨hi, hrow⟩ | ⟨hi, hrow⟩
  · rcases roundKeyIndex_eq k with ⟨hk, hindex⟩ | ⟨hk, hindex⟩
    · rw [hrow, hindex, dif_pos ⟨hi, hk⟩]
      cases s.status.svalid <;> rfl
    · rw [hrow, hindex, dif_neg (by omega)]
      cases s.status.svalid <;> rfl
  · rw [hrow, dif_neg (by omega)]
    cases s.status.svalid <;> rfl

/-- Settles O21: the three ends of `exec_ldrk`. -/
theorem ldrkCopiesOneRow : Obligations.LdrkCopiesOneRow := by
  unfold Obligations.LdrkCopiesOneRow
  refine ⟨fun i => toNat_encode (.ldrk i), illegalWords_of_reservedField (by decide) (by decide), fun i s => ?ends⟩
  case ends =>
    rw [exec_ldrk]
    split_ifs <;> rfl

/-- Settles O22: the three ends of `exec_rdsk`. -/
theorem rdskReadsOneScheduleWord : Obligations.RdskReadsOneScheduleWord := by
  unfold Obligations.RdskReadsOneScheduleWord
  refine ⟨fun i k => toNat_encode (.rdsk i k), illegalWords_of_reservedField (by decide) (by decide), fun i k s => ?ends⟩
  case ends =>
    rw [exec_rdsk]
    split_ifs <;> rfl

end Sys2Proof.Machine
end

section
/-! PROOFS. Stepping a block by hand (`44_access.md` R96). The commands run in three parts: `B2W 0..3` takes the words of `BLK`
into `X`, each pair `LDRK i`, `ENCR` or `DECR` takes `X` to the words after one more row (`HandStepped`, kept by induction on the
rows), and `W2B 0..3` writes the bytes of `X` into `BLK`. That is what `ENCB` and `DECB` leave. Statement O45. -/

namespace Sys2Proof.Machine

/-! ## A run of commands -/

@[simp] theorem execAll_nil (s : State) : execAll [] s = .next s := rfl

/-- A run goes on from the next state of its first command. -/
theorem execAll_cons_of_next {i : Instr} {s t : State} (h : exec i s = .next t) (is : List Instr) :
    execAll (i :: is) s = execAll is t := by
  simp only [execAll, h]

/-- A run of two parts is the second from where the first ends. -/
theorem execAll_append {is : List Instr} {s t : State} (h : execAll is s = .next t) (js : List Instr) :
    execAll (is ++ js) s = execAll js t := by
  induction is generalizing s with
  | nil => cases h; rfl
  | cons i is ih =>
    obtain ⟨s', -, hnext, -⟩ := execWith_next Config.delta i s
    rw [execWith_default] at hnext
    rw [execAll_cons_of_next hnext] at h
    rw [List.cons_append, execAll_cons_of_next hnext, ih h]

/-! ## The block into `X` and back -/

/-- Writing all four words of `X` replaces it. -/
theorem set_all_words (x v : Vector Word 4) :
    (((x.set (wordIndex 0) v[0]).set (wordIndex 1) v[1]).set (wordIndex 2) v[2]).set (wordIndex 3) v[3] = v :=
  words_eq_iff.mpr (by simp)

/-- Writing all four groups of `BLK` with the bytes of the words `x` replaces it by their block. -/
theorem memWrite_all_groups (B : Vector Byte 16) (x : Vector Word 4) :
    memWrite (memWrite (memWrite (memWrite B
      (groupOffset 0) (wordToBytes x[wordIndex 0])) (groupOffset 1) (wordToBytes x[wordIndex 1]))
      (groupOffset 2) (wordToBytes x[wordIndex 2])) (groupOffset 3) (wordToBytes x[wordIndex 3]) = wordsToBlock x := by
  refine Vector.ext fun n hn => ?_
  have hwrite : ∀ (B : Vector Byte 16) (j : BitVec 2) (bytes : Vector Byte 4), (memWrite B (groupOffset j) bytes)[n] =
      if n / 4 = j.toNat then bytes[n % 4]'(Nat.mod_lt _ (by decide)) else B[n] :=
    fun B j bytes => getElem_memWrite_group B j bytes ⟨n, hn⟩
  rw [getElem_wordsToBlock, hwrite, hwrite, hwrite, hwrite]
  simp only [Fin.getElem_fin, BitVec.reduceToNat]
  split_ifs with h3 h2 h1 h0
  · simp only [h3]
  · simp only [h2]
  · simp only [h1]
  · simp only [h0]
  · omega

/-- `B2W 0..3` puts the words of `BLK` into `X`. -/
theorem execAll_b2w_all (s : State) : execAll [.b2w 0, .b2w 1, .b2w 2, .b2w 3] s =
    .next { s with x := blockToWords s.blk, rsp := some ⟨0, 0⟩ } := by
  rw [← set_all_words s.x (blockToWords s.blk)]
  rfl

/-- `W2B 0..3` puts the bytes of `X` into `BLK`. -/
theorem execAll_w2b_all (s : State) : execAll [.w2b 0, .w2b 1, .w2b 2, .w2b 3] s =
    .next { s with blk := wordsToBlock s.x, rsp := some ⟨0, 0⟩ } := by
  rw [execAll_cons_of_next (exec_w2b 0 s), execAll_cons_of_next (exec_w2b 1 _), execAll_cons_of_next (exec_w2b 2 _),
    execAll_cons_of_next (exec_w2b 3 _), execAll_nil, memWrite_all_groups]

/-! ## The rounds -/

/-- `t` is reached from `s` by the first `n` rounds of its schedule: `X` holds the words after them, and what the rounds
read is as it was. -/
structure HandStepped (round : Vector Word 4 → RoundKey → Vector Word 4) (s : State) (n : Nat) (t : State) : Prop where
  x : t.x = wordsAfter round s n
  sched : t.sched = s.sched
  status : t.status = s.status

/-- `LDRK i` for a readable row loads it, whatever `SDIR` is (R96). -/
theorem exec_ldrk_of_row {s : State} (hvalid : s.status.svalid = true) (i : Fin 32) (hi : i.val < s.status.snr.toNat) :
    exec (.ldrk (BitVec.ofNat 5 i.val)) s = .next { s with rkr := s.sched[i], rsp := some ⟨0, 0⟩ } := by
  have hrow : (BitVec.ofNat 5 i.val).toNat = i.val := Nat.mod_eq_of_lt i.isLt
  rw [exec_ldrk, if_neg (by simp [hvalid]), if_neg (by omega)]
  simp only [hrow, Fin.getElem_fin]

section
variable {round : Vector Word 4 → RoundKey → Vector Word 4} {cmd : Instr} {s t : State}
  (hcmd : ∀ s : State, exec cmd s = .next { s with x := round s.x s.rkr, rsp := some ⟨0, 0⟩ })
include hcmd

/-- The pair for row `i`: `LDRK i` loads the row and the round command applies it. -/
theorem HandStepped.next_row (hvalid : s.status.svalid = true) (i : Fin 32) (hi : i.val < s.status.snr.toNat)
    (h : HandStepped round s i.val t) :
    ∃ u, execAll [.ldrk (BitVec.ofNat 5 i.val), cmd] t = .next u ∧ HandStepped round s (i.val + 1) u := by
  obtain ⟨hx, hsched, hstatus⟩ := h
  have hload := exec_ldrk_of_row (hstatus ▸ hvalid) i (hstatus ▸ hi)
  refine ⟨_, (execAll_cons_of_next hload [cmd]).trans (execAll_cons_of_next (hcmd _) []), ?words, hsched, hstatus⟩
  case words => rw [wordsAfter_succ round s i hi, ← hx, ← hsched]

/-- The pairs for the first `n` rows. -/
theorem HandStepped.rows (hvalid : s.status.svalid = true) (h : HandStepped round s 0 t) (n : Nat)
    (hn : n ≤ s.status.snr.toNat) (hn32 : n ≤ 32) :
    ∃ u, execAll ((List.range n).flatMap fun i => [.ldrk (BitVec.ofNat 5 i), cmd]) t = .next u ∧
      HandStepped round s n u := by
  induction n with
  | zero => exact ⟨t, rfl, h⟩
  | succ n ih =>
    obtain ⟨u, hrun, hu⟩ := ih (by omega) (by omega)
    obtain ⟨v, hpair, hv⟩ := hu.next_row hcmd hvalid ⟨n, hn32⟩ hn
    refine ⟨v, ?run, hv⟩
    case run =>
      rw [List.range_succ, List.flatMap_append, execAll_append hrun, List.flatMap_singleton]
      exact hpair

/-- The whole run leaves in `X` the words after all rounds, and in `BLK` their bytes. -/
theorem execAll_handStepping (hlegal : s.status.Legal) (hvalid : s.status.svalid = true) :
    ∃ u, execAll (handStepping s.status.snr.toNat cmd) s = .next u ∧
      u.x = foldRounds round s.schedule (blockToWords s.blk) ∧ u.blk = wordsToBlock u.x := by
  obtain ⟨-, hrounds, -⟩ := hlegal
  have hsnr : s.status.snr.toNat ≤ 32 := by have := hrounds hvalid; omega
  have hstart : HandStepped round s 0 { s with x := blockToWords s.blk, rsp := some ⟨0, 0⟩ } :=
    ⟨(wordsAfter_zero round s).symm, rfl, rfl⟩
  obtain ⟨t, hrun, ht⟩ := hstart.rows hcmd hvalid _ le_rfl hsnr
  have hx : t.x = foldRounds round s.schedule (blockToWords s.blk) := ht.x.trans (wordsAfter_snr round s)
  refine ⟨{ t with blk := wordsToBlock t.x, rsp := some ⟨0, 0⟩ }, ?run, hx, rfl⟩
  case run =>
    rw [handStepping, List.append_assoc, execAll_append (execAll_b2w_all s), execAll_append hrun, execAll_w2b_all]

end

/-! ## Beside the block commands -/

/-- `ENCB` under an Encrypt schedule (R86). -/
theorem exec_encb_of_encrypt {s : State} (hvalid : s.status.svalid = true) (hdir : s.status.sdir = false) :
    exec .encb s = .next { s with
      x := foldRounds encryptRound s.schedule (blockToWords s.blk), blk := encryptBlock s.blk s.schedule
      rsp := some ⟨0, 0⟩ } := by
  rw [exec_encb, if_neg (by simp [hvalid]), if_neg (by simp [hdir])]

/-- `DECB` under a Decrypt schedule (R87). -/
theorem exec_decb_of_decrypt {s : State} (hvalid : s.status.svalid = true) (hdir : s.status.sdir = true) :
    exec .decb s = .next { s with
      x := foldRounds decryptRound s.schedule (blockToWords s.blk), blk := decryptBlock s.blk s.schedule
      rsp := some ⟨0, 0⟩ } := by
  rw [exec_decb, if_neg (by simp [hvalid]), if_neg (by simp [hdir])]

/-- Settles O45: `execAll_handStepping` at the two round commands, beside what the block command leaves. -/
theorem handSteppingEqualsTheBlockCommand : Obligations.HandSteppingEqualsTheBlockCommand := by
  unfold Obligations.HandSteppingEqualsTheBlockCommand
  intro s hlegal hvalid
  constructor
  case left =>
    obtain ⟨u, hrun, hx, hblk⟩ := execAll_handStepping exec_encr hlegal hvalid
    have hblock : u.blk = encryptBlock s.blk s.schedule := by rw [hblk, hx]; rfl
    exact ⟨u, hrun, hblock, by rw [hblk, blockToWords_wordsToBlock],
      fun hdir => ⟨_, exec_encb_of_encrypt hvalid hdir, hblock, hx⟩⟩
  case right =>
    obtain ⟨u, hrun, hx, hblk⟩ := execAll_handStepping exec_decr hlegal hvalid
    have hblock : u.blk = decryptBlock s.blk s.schedule := by rw [hblk, hx]; rfl
    exact ⟨u, hrun, hblock, by rw [hblk, blockToWords_wordsToBlock],
      fun hdir => ⟨_, exec_decb_of_decrypt hvalid hdir, hblock, hx⟩⟩

end Sys2Proof.Machine
end

section
/-! PROOFS. The system commands (`45_system.md`). `NOP`, `RDST` and `CLRE` are one equation of `exec` each. The word that `RDST`
answers is a chain of concatenations, whose fields are taken off from the right; that `CLRE` alone clears the error is read off
from the two ways a command ends: a failed command keeps a pending code, and the `ERR` column of R25 is `CLRE`'s.
Statements O10 to O12. -/

namespace Sys2Proof.Machine

/-! ## The three commands as equations -/

theorem exec_nop (s : State) : exec .nop s = .next { s with rsp := some ⟨0, 0⟩ } := rfl

theorem exec_rdst (s : State) : exec .rdst s = .next { s with rsp := some ⟨0, s.status.word⟩ } := rfl

theorem exec_clre (s : State) : exec .clre s =
    .next { s with status := { s.status with err := 0 }, rsp := some ⟨0, 0⟩ } := rfl

/-- Settles O10: the equation of `NOP`. -/
theorem nopChangesNothing : Obligations.NopChangesNothing := by
  unfold Obligations.NopChangesNothing
  exact ⟨encode_eq_ofNat .nop, illegalWords_of_reservedField (by decide) (by decide), exec_nop⟩

/-! ## The word `STATUS` reads as (R17) -/

/-- A bit string that starts above the last part of a concatenation is one of the rest. -/
theorem extractLsb'_append_add {n m : Nat} (x : BitVec n) (y : BitVec m) (start len : Nat) :
    (x ++ y).extractLsb' (m + start) len = x.extractLsb' start len := by
  rw [BitVec.extractLsb'_append_eq_of_le (Nat.le_add_right m start), Nat.add_sub_cancel_left]

/-- The two flags are the last two bits of the word. -/
theorem Status.word_eq_concat (st : Status) :
    st.word = ((0#20 ++ st.err ++ st.snr).concat st.sdir).concat st.svalid := rfl

theorem Status.word_svalid (st : Status) : st.word.getLsbD 0 = st.svalid := by
  rw [st.word_eq_concat]
  exact BitVec.getLsbD_concat_zero

theorem Status.word_sdir (st : Status) : st.word.getLsbD 1 = st.sdir := by
  rw [st.word_eq_concat]
  exact BitVec.getLsbD_concat_succ.trans BitVec.getLsbD_concat_zero

/-- What stands above the two flags of `STATUS`. -/
theorem Status.word_above_flags (st : Status) (start len : Nat) :
    st.word.extractLsb' (1 + (1 + start)) len = (0#20 ++ st.err ++ st.snr).extractLsb' start len :=
  (extractLsb'_append_add _ _ _ len).trans (extractLsb'_append_add _ _ start len)

theorem Status.word_snr (st : Status) : st.word.extractLsb' 2 6 = st.snr :=
  (st.word_above_flags 0 6).trans BitVec.extractLsb'_append_eq_right

/-- What stands above `SNR`. -/
theorem Status.word_above_snr (st : Status) (start len : Nat) :
    st.word.extractLsb' (1 + (1 + (6 + start))) len = (0#20 ++ st.err).extractLsb' start len :=
  (st.word_above_flags (6 + start) len).trans (extractLsb'_append_add _ _ start len)

theorem Status.word_err (st : Status) : st.word.extractLsb' 8 4 = st.err :=
  (st.word_above_snr 0 4).trans BitVec.extractLsb'_append_eq_right

theorem Status.word_reserved (st : Status) : st.word.extractLsb' 12 20 = 0 :=
  (st.word_above_snr 4 20).trans BitVec.extractLsb'_append_eq_left

/-- Settles O11: the equation of `RDST`, and the fields of the word it answers. -/
theorem rdstReadsStatus : Obligations.RdstReadsStatus := by
  unfold Obligations.RdstReadsStatus
  exact ⟨encode_eq_ofNat .rdst, illegalWords_of_reservedField (by decide) (by decide), fun s =>
    ⟨s.status.word, exec_rdst s, s.status.word_svalid, s.status.word_sdir, s.status.word_snr, s.status.word_err,
      s.status.word_reserved⟩⟩

/-! ## Clearing the error -/

/-- A failed command keeps the code of the error that is pending (R108). -/
theorem failed_err_of_pending {s : State} (hpending : s.status.err ≠ 0) (code : BitVec 4) :
    (failed code s).status.err = s.status.err := if_neg hpending

/-- The one command that takes a pending error away, under every table. -/
theorem eq_clre_of_clears_err {delta : Vector Word 8} {i : Instr} {s t : State} (hends : Ends delta i s (.next t))
    (hpending : s.status.err ≠ 0) (hcleared : t.status.err = 0) : i = .clre := by
  have hchanged : t.status.err ≠ s.status.err := fun hkept => hpending (hkept.symm.trans hcleared)
  cases hends with
  | failed code => exact absurd (failed_err_of_pending hpending code.code) hchanged
  | success d hu => exact hu.err_column hchanged

/-- Settles O12: the equation of `CLRE`, and that no other command takes a pending error away. -/
theorem clreClearsTheError : Obligations.ClreClearsTheError := by
  unfold Obligations.ClreClearsTheError
  refine ⟨encode_eq_ofNat .clre, illegalWords_of_reservedField (by decide) (by decide), exec_clre, ?onlyClre⟩
  case onlyClre =>
    intro i s t ht hpending hcleared
    have hends := execWith_ends Config.delta i s
    rw [execWith_default, ht] at hends
    exact eq_clre_of_clears_err hends hpending hcleared

end Sys2Proof.Machine
end

section
/-! PROOFS. Errors (`60_exceptions.md`). `answerCode` is the table of error codes as a function of the command and of
`STATUS`, and `exec_answers` ties it to `exec`: the conditions of R103 are read off from it. That a pending error alters
nothing is `exec_withErr`: with another `STATUS.ERR` beforehand, a command ends in the same state but for `ERR`. Statements
O46, O47, O48 and O8. -/

namespace Sys2Proof.Machine

/-! ## Which code a command answers (R103, R106) -/

/-- The table of error codes (R103), each command's conditions in the order in which they are tested (R106). -/
def answerCode (i : Instr) (st : Status) : BitVec 4 :=
  match i with
  | .wrrk k | .rdrk k => if 6 ≤ k.toNat then 6 else 0
  | .ldrk row => if st.svalid = false then 4 else if st.snr.toNat ≤ row.toNat then 6 else 0
  | .rdsk row k => if st.svalid = false then 4 else if st.snr.toNat ≤ row.toNat ∨ 6 ≤ k.toNat then 6 else 0
  | .ksched klen dir => if klen.toNat ∈ [16, 24, 32] then if dir.toNat ∈ [2, 3] then 2 else 0 else 1
  | .encb => if st.svalid = false then 4 else if st.sdir = true then 5 else 0
  | .decb => if st.svalid = false then 4 else if st.sdir = false then 5 else 0
  | _ => 0

/-- `dir` is no direction exactly for 2 and 3 (R44). -/
theorem direction_notMem_iff (dir : BitVec 2) : dir ∉ [0, 1] ↔ dir.toNat ∈ [2, 3] := by
  revert dir; decide

/-- `KSCHED` answers by the table, whatever the round constants. -/
theorem kschedWith_answers (delta : Vector Word 8) (klen : BitVec 6) (dir : BitVec 2) (s : State) :
    ∃ t r, kschedWith delta klen dir s = .next t ∧ t.rsp = some r ∧ r.err = answerCode (.ksched klen dir) s.status := by
  rw [answerCode]
  split
  next hlen =>
    obtain ⟨L, hL⟩ := mem_legal_lengths_iff.mp hlen
    split
    next hdir => exact ⟨_, _, kschedWith_of_bad_direction delta s hL ((direction_notMem_iff dir).mpr hdir), rfl, rfl⟩
    next hdir =>
      obtain ⟨S, -, -, hend⟩ := kschedWith_of_legal delta s hL (not_not.mp (mt (direction_notMem_iff dir).mp hdir))
      exact ⟨_, _, hend, rfl, rfl⟩
  next hlen => exact ⟨_, _, kschedWith_of_bad_length delta s hlen, rfl, rfl⟩

/-- Every command answers a next state, with the code of the table. -/
theorem exec_answers (i : Instr) (s : State) :
    ∃ t r, exec i s = .next t ∧ t.rsp = some r ∧ r.err = answerCode i s.status := by
  cases i with
  | wrrk k => simp only [exec_wrrk, answerCode, ← not_lt, ite_not]; split <;> exact ⟨_, _, rfl, rfl, rfl⟩
  | rdrk k => simp only [exec_rdrk, answerCode, ← not_lt, ite_not]; split <;> exact ⟨_, _, rfl, rfl, rfl⟩
  | ldrk row => rw [exec_ldrk, answerCode]; split_ifs <;> exact ⟨_, _, rfl, rfl, rfl⟩
  | rdsk row k =>
    simp only [exec_rdsk, answerCode, ← not_lt, ← not_and_or, ite_not]
    split_ifs <;> exact ⟨_, _, rfl, rfl, rfl⟩
  | ksched klen dir => exact kschedWith_answers Config.delta klen dir s
  | encb => rw [exec_encb, answerCode]; split_ifs <;> exact ⟨_, _, rfl, rfl, rfl⟩
  | decb => rw [exec_decb, answerCode]; split_ifs <;> exact ⟨_, _, rfl, rfl, rfl⟩
  | _ => exact ⟨_, _, rfl, rfl, rfl⟩

section
variable (i : Instr) (st : Status)

/-! The conditions of each code, command by command; a command that is not named never answers the code. -/

theorem answerCode_eq_keyLen_iff :
    answerCode i st = 1 ↔ ∃ klen dir, i = .ksched klen dir ∧ klen.toNat ∉ [16, 24, 32] := by
  cases i with
  | ksched klen dir => simp [answerCode, ite_eq_iff, -ite_eq_left_iff]
  | _ => simp [answerCode, ite_eq_iff]

theorem answerCode_eq_dir_iff :
    answerCode i st = 2 ↔ ∃ klen dir, i = .ksched klen dir ∧ klen.toNat ∈ [16, 24, 32] ∧ dir.toNat ∈ [2, 3] := by
  cases i with
  | ksched klen dir => simp [answerCode, ite_eq_iff, -ite_eq_left_iff]
  | _ => simp [answerCode, ite_eq_iff]

theorem answerCode_eq_noSched_iff :
    answerCode i st = 4 ↔ st.svalid = false ∧
      (i = .encb ∨ i = .decb ∨ (∃ row, i = .ldrk row) ∨ ∃ row k, i = .rdsk row k) := by
  cases i with
  | encb | decb | ldrk | rdsk => simp [answerCode, ite_eq_iff, -ite_eq_left_iff]
  | _ => simp [answerCode, ite_eq_iff]

theorem answerCode_eq_mismatch_iff :
    answerCode i st = 5 ↔ st.svalid = true ∧ ((i = .encb ∧ st.sdir = true) ∨ (i = .decb ∧ st.sdir = false)) := by
  cases i with
  | encb | decb => simp [answerCode, ite_eq_iff, -ite_eq_left_iff]
  | _ => simp [answerCode, ite_eq_iff]

theorem answerCode_eq_index_iff :
    answerCode i st = 6 ↔ (∃ k, (i = .wrrk k ∨ i = .rdrk k) ∧ 6 ≤ k.toNat) ∨
      (st.svalid = true ∧ ((∃ row, i = .ldrk row ∧ st.snr.toNat ≤ row.toNat) ∨
        ∃ row k, i = .rdsk row k ∧ (st.snr.toNat ≤ row.toNat ∨ 6 ≤ k.toNat))) := by
  cases i with
  | wrrk k | rdrk k | ldrk row | rdsk row k => simp [answerCode, ite_eq_iff, -ite_eq_left_iff]
  | _ => simp [answerCode, ite_eq_iff]

end

/-- Code 3 is the illegal words', and 7 to 15 are reserved (R103). -/
theorem exec_code_range {i : Instr} {s t : State} {r : Response} (ht : exec i s = .next t) (hr : t.rsp = some r) :
    r.err ≠ 3 ∧ r.err.toNat ≤ 6 := by
  rcases exec_cases i s with ⟨code, hfail, hcode⟩ | ⟨u, d, hok, -⟩
  · cases ht.symm.trans hfail
    cases hr
    cases code with
    | illegal => exact absurd rfl hcode
    | _ => decide
  · cases ht.symm.trans hok
    cases hr
    exact (by decide : (0 : BitVec 4) ≠ 3 ∧ (0 : BitVec 4).toNat ≤ 6)

/-- Settles O46: the code a command answers is the table's. -/
theorem errorsExactlyWhen : Obligations.ErrorsExactlyWhen := by
  unfold Obligations.ErrorsExactlyWhen
  intro i s
  obtain ⟨t, r, ht, hr, hcode⟩ := exec_answers i s
  have hrange := exec_code_range ht hr
  refine ⟨t, r, ht, hr, ?_⟩
  rw [hcode] at hrange ⊢
  exact ⟨answerCode_eq_keyLen_iff .., answerCode_eq_dir_iff .., answerCode_eq_noSched_iff ..,
    answerCode_eq_mismatch_iff .., answerCode_eq_index_iff .., hrange⟩

/-! ## What a failed command leaves (R107) -/

/-- A command that answers a nonzero code has done what `raise` does, and nothing else. -/
theorem eq_failed_of_exec {i : Instr} {s t : State} {r : Response} (ht : exec i s = .next t) (hr : t.rsp = some r)
    (hcode : r.err ≠ 0) : t = failed r.err s := by
  have hends := execWith_ends Config.delta i s
  rw [execWith_default, ht] at hends
  cases hends with
  | failed code => cases hr; rfl
  | success d hu => cases hr; exact absurd rfl hcode

/-- Settles O47: an illegal word fails as it is decoded, a command by `eq_failed_of_exec`. -/
theorem failedCommandChangesOnlyErr : Obligations.FailedCommandChangesOnlyErr := by
  unfold Obligations.FailedCommandChangesOnlyErr
  intro C d rest s t r hin ht hr hcode
  cases hdec : decode C with
  | error e =>
    rw [step_of_decode_error hin hdec] at ht
    cases ht
    cases hr
    rfl
  | ok i =>
    rw [step_of_decode_ok hin hdec] at ht
    exact eq_failed_of_exec ht hr hcode

/-! ## A pending error (R108) -/

/-- The state with another error pending. -/
def State.withErr (e : BitVec 4) (s : State) : State := { s with status := { s.status with err := e } }

section
variable (e : BitVec 4) (s : State)

@[simp] theorem State.withErr_svalid : (s.withErr e).status.svalid = s.status.svalid := rfl
@[simp] theorem State.withErr_sdir : (s.withErr e).status.sdir = s.status.sdir := rfl
@[simp] theorem scheduleRow_withErr (row : BitVec 5) :
    scheduleRow (s.withErr e).status row = scheduleRow s.status row := rfl
@[simp] theorem keyBytes_withErr (L : KeyLength) : keyBytes L (s.withErr e) = keyBytes L s := rfl

end

/-- What `STATUS.ERR` holds after a command other than `CLRE`. -/
theorem exec_err {i : Instr} (hi : i ≠ .clre) (s : State) : ∃ t r, exec i s = .next t ∧ t.rsp = some r ∧
    t.status.err = if s.status.err = 0 then r.err else s.status.err := by
  have hends := execWith_ends Config.delta i s
  rw [execWith_default] at hends
  generalize exec i s = o at hends
  cases hends with
  | failed code => exact ⟨_, _, rfl, rfl, rfl⟩
  | @success u d hu =>
    have hkept : u.status.err = s.status.err := not_not.mp (mt hu.err_column hi)
    refine ⟨_, _, rfl, rfl, ?_⟩
    split
    next hzero => exact hkept.trans hzero
    next => exact hkept

/-- `KSCHED` does not look at `ERR`. -/
theorem kschedWith_withErr (delta : Vector Word 8) (klen : BitVec 6) (dir : BitVec 2) (s : State) (e : BitVec 4) :
    ∃ t e', kschedWith delta klen dir s = .next t ∧ kschedWith delta klen dir (s.withErr e) = .next (t.withErr e') := by
  simp only [kschedWith, keyBytes_withErr, raiseErr_eq]
  split
  · exact ⟨_, _, rfl, rfl⟩
  · split <;> exact ⟨_, _, rfl, rfl⟩

/-- With another error pending, a command other than `RDST` ends in the same state but for `ERR`. -/
theorem exec_withErr {i : Instr} (hi : i ≠ .rdst) (s : State) (e : BitVec 4) :
    ∃ t e', exec i s = .next t ∧ exec i (s.withErr e) = .next (t.withErr e') := by
  cases i with
  | rdst => exact absurd rfl hi
  | wrrk k => rw [exec_wrrk, exec_wrrk]; split <;> exact ⟨_, _, rfl, rfl⟩
  | rdrk k => rw [exec_rdrk, exec_rdrk]; split <;> exact ⟨_, _, rfl, rfl⟩
  | ldrk row =>
    simp only [exec, execLdrk, raiseErr_eq, State.withErr_svalid, scheduleRow_withErr]
    split
    · split <;> exact ⟨_, _, rfl, rfl⟩
    · exact ⟨_, _, rfl, rfl⟩
  | rdsk row k =>
    simp only [exec, execRdsk, raiseErr_eq, State.withErr_svalid, scheduleRow_withErr]
    split
    · split <;> exact ⟨_, _, rfl, rfl⟩
    · exact ⟨_, _, rfl, rfl⟩
  | ksched klen dir => exact kschedWith_withErr Config.delta klen dir s e
  | encb => rw [exec_encb, exec_encb, State.withErr_svalid, State.withErr_sdir]; split_ifs <;> exact ⟨_, _, rfl, rfl⟩
  | decb => rw [exec_decb, exec_decb, State.withErr_svalid, State.withErr_sdir]; split_ifs <;> exact ⟨_, _, rfl, rfl⟩
  | _ => exact ⟨_, _, rfl, rfl⟩

/-- Settles O48: an illegal word fails whatever error is pending, `exec_err` and `exec_withErr` say it of the commands, and
`RDST` alone shows the error in the data it returns. -/
theorem firstErrorSticks : Obligations.FirstErrorSticks := by
  unfold Obligations.FirstErrorSticks
  intro C d rest s hin
  have hin' : ∀ e, (s.withErr e).inbox = .command C d :: rest := fun _ => hin
  cases hdec : decode C with
  | error e =>
    exact ⟨fun _ => ⟨_, _, step_of_decode_error hin hdec, rfl, rfl⟩, fun e' =>
      ⟨_, _, step_of_decode_error hin hdec, step_of_decode_error (hin' e') hdec, rfl, fun _ => rfl, rfl⟩⟩
  | ok i =>
    refine ⟨fun hclre => ?sticks, fun e => ?pending⟩
    case sticks =>
      rw [step_of_decode_ok hin hdec]
      exact exec_err (fun hi => hclre (congrArg _ hi)) (accepted d rest s)
    case pending =>
      have hstep : step s = exec i (accepted d rest s) := step_of_decode_ok hin hdec
      have hstep' : step (s.withErr e) = exec i ((accepted d rest s).withErr e) := step_of_decode_ok (hin' e) hdec
      by_cases hi : i = .rdst
      · subst hi
        exact ⟨_, _, hstep, hstep', rfl, absurd rfl, rfl⟩
      · obtain ⟨t, e', ht, ht'⟩ := exec_withErr hi (accepted d rest s) e
        exact ⟨t, t.withErr e', hstep.trans ht, hstep'.trans ht', rfl, fun _ => rfl, rfl⟩

/-! ## A step in which the host presents nothing (R116) -/

/-- Settles O8: with an empty inbox the step is idle (log entry 4). -/
theorem idleStepHoldsTheState : Obligations.IdleStepHoldsTheState := by
  unfold Obligations.IdleStepHoldsTheState
  intro s hin
  simp only [step, stepWith, hin, idle]

end Sys2Proof.Machine
end

section
/-! PROOFS. Reset and hazards (`70_reset_and_hazards.md`). That data decides nothing an observer may see is said with the
quantifiers: `runCommand_public` gives one `STATUS` and one code that every state with the same `STATUS` ends a command word
with, and `portEdge_control` carries that over a rising edge. Statements O7, O9, O55 and O58. -/

namespace Sys2Proof.Machine

/-! ## Reset (R117) -/

/-- The step on the event Reset, under every table. -/
theorem stepWith_of_reset {s : State} {rest : List PortEvent} (hin : s.inbox = .reset :: rest)
    (delta : Vector Word 8) : stepWith delta s = .next { State.reset with inbox := rest } := by
  simp only [stepWith, hin, applyReset]

/-- A block with no command in flight is ready in every cycle with `rst = 0` (R41). -/
theorem portOut_of_idle {p : PortState} (hidle : p.inFlight = none) {inp : PortIn} (hrst : inp.rst = false) :
    portOut p inp = ⟨true, none⟩ := by
  simp [portOut, hrst, hidle]

/-- Settles O7: the edge with `rst = 1` leaves an idle block, which is ready. -/
theorem resetFromAnyState : Obligations.ResetFromAnyState := by
  unfold Obligations.ResetFromAnyState
  refine ⟨fun rest s hin => ⟨stepWith_of_reset hin Config.delta, stepWith_of_reset hin⟩, fun delta p cv C d => ?port⟩
  case port => exact ⟨rfl, ⟨applyReset p.core, none⟩, rfl, rfl, fun _ hrst => portOut_of_idle rfl hrst⟩

/-! ## Completion (R107, R123) -/

/-- The step on a command word answers a next state with a response, and takes that event alone. -/
theorem step_of_command_next {s : State} {C : BitVec 16} {d : Word} {rest : List PortEvent}
    (hin : s.inbox = .command C d :: rest) : ∃ t r, step s = .next t ∧ t.rsp = some r ∧ t.inbox = rest := by
  obtain ⟨t, r, hrun, hrsp, hinbox⟩ := runCommand_next Config.delta C d { s with inbox := rest }
  exact ⟨t, r, (stepWith_of_command hin Config.delta).trans hrun, hrsp, hinbox⟩

/-- Settles O9, by the event the step takes. -/
theorem everyCommandResponds : Obligations.EveryCommandResponds := by
  unfold Obligations.EveryCommandResponds
  refine ⟨fun s => ?next, fun C d rest s hin => step_of_command_next hin⟩
  case next =>
    cases hin : s.inbox with
    | nil => exact ⟨_, idleStepHoldsTheState s hin⟩
    | cons event rest =>
      cases event with
      | reset => exact ⟨_, stepWith_of_reset hin Config.delta⟩
      | command C d =>
        obtain ⟨t, -, hstep, -⟩ := step_of_command_next hin
        exact ⟨t, hstep⟩

/-! ## What an observer sees of a command (R122) -/

/-- The public part of a command's end: it answers a next state with `STATUS` as `st` and the error code `code`. -/
def EndsPublic (st : Status) (code : BitVec 4) (o : Outcome) : Prop :=
  ∃ t r, o = .next t ∧ t.status = st ∧ t.rsp = some r ∧ r.err = code

/-- `STATUS` after a command that answers `code` and writes no other field: the first code since `ERR` was last 0 stays
(R108). -/
def Status.answered (st : Status) (code : BitVec 4) : Status :=
  { st with err := if st.err = 0 then code else st.err }

/-- Code 0 is no error. -/
theorem Status.answered_zero (st : Status) : st.answered 0 = st := by
  have herr : (if st.err = 0 then 0 else st.err) = st.err := ite_eq_right_iff.mpr Eq.symm
  rw [Status.answered, herr]

theorem endsPublic_failed (code : BitVec 4) (s : State) : EndsPublic (s.status.answered code) code (.next (failed code s)) :=
  ⟨_, _, rfl, rfl, rfl, rfl⟩

/-- `STATUS` is written by `CLRE` and `KSCHED` alone, where a command succeeds (R25). -/
theorem Writes.status_column {delta : Vector Word 8} {i : Instr} {s u : State} (h : Writes delta s i u)
    (hclre : i ≠ .clre) (hksched : ∀ klen dir, i ≠ .ksched klen dir) : u.status = s.status := by
  cases h with
  | schedule hS => exact absurd rfl (hksched _ _)
  | error => exact absurd rfl hclre
  | _ => rfl

/-- A command other than `CLRE` and `KSCHED` writes no field of `STATUS` but `ERR`, with the code of the table of R103. -/
theorem execWith_public_of_ne {i : Instr} (hclre : i ≠ .clre) (hksched : ∀ klen dir, i ≠ .ksched klen dir)
    (st : Status) : ∃ st' code, ∀ delta s, s.status = st → EndsPublic st' code (execWith delta i s) := by
  refine ⟨st.answered (answerCode i st), answerCode i st, ?ends⟩
  rintro delta s rfl
  obtain ⟨t, r, ht, hrsp, hcode⟩ := exec_answers i s
  rw [← execWith_of_ne delta i s hksched] at ht
  have hends := execWith_ends delta i s
  rw [ht] at hends ⊢
  rw [← hcode]
  cases hends with
  | failed code => cases hrsp; exact endsPublic_failed code.code s
  | success d hu =>
    cases hrsp
    exact ⟨_, _, rfl, (hu.status_column hclre hksched).trans s.status.answered_zero.symm, rfl, rfl⟩

/-- How `KSCHED` ends is fixed by its operands and `STATUS`: the number of rounds it records is the key length's, whatever
the key and the round constants (R75). -/
theorem kschedWith_public (klen : BitVec 6) (dir : BitVec 2) (st : Status) : ∃ st' code,
    ∀ delta s, s.status = st → EndsPublic st' code (kschedWith delta klen dir s) := by
  by_cases hlen : klen.toNat ∈ [16, 24, 32]
  · obtain ⟨L, hL⟩ := mem_legal_lengths_iff.mp hlen
    by_cases hdir : dir ∈ [0, 1]
    · refine ⟨st.scheduleBuilt dir L.rounds, 0, ?built⟩
      rintro delta s rfl
      obtain ⟨S, -, hrounds, hend⟩ := kschedWith_of_legal delta s hL hdir
      rw [hend, ← hrounds]
      exact ⟨_, _, rfl, rfl, rfl, rfl⟩
    · refine ⟨st.answered 2, 2, ?badDirection⟩
      rintro delta s rfl
      rw [kschedWith_of_bad_direction delta s hL hdir]
      exact endsPublic_failed 2 s
  · refine ⟨st.answered 1, 1, ?badLength⟩
    rintro delta s rfl
    rw [kschedWith_of_bad_length delta s hlen]
    exact endsPublic_failed 1 s

/-- How a command ends, as far as an observer sees, is fixed by the command and `STATUS`. -/
theorem execWith_public (i : Instr) (st : Status) : ∃ st' code,
    ∀ delta s, s.status = st → EndsPublic st' code (execWith delta i s) := by
  cases i with
  | clre =>
    refine ⟨st.clearError, 0, ?cleared⟩
    rintro delta s rfl
    exact ⟨_, _, rfl, rfl, rfl, rfl⟩
  | ksched klen dir => exact kschedWith_public klen dir st
  | _ => refine execWith_public_of_ne ?_ ?_ st <;> nofun

/-- The same of a command word, legal or not, whatever its data operand. -/
theorem runCommand_public (C : BitVec 16) (st : Status) : ∃ st' code,
    ∀ delta d s, s.status = st → EndsPublic st' code (runCommand delta C d s) := by
  cases hdec : decode C with
  | error e =>
    refine ⟨st.answered 3, 3, ?illegal⟩
    rintro delta d s rfl
    rw [runCommand_of_decode_error hdec]
    exact endsPublic_failed 3 (s.accept d)
  | ok i =>
    obtain ⟨st', code, hends⟩ := execWith_public i st
    refine ⟨st', code, fun delta d s hst => ?legal⟩
    rw [runCommand_of_decode_ok hdec]
    exact hends delta (s.accept d) hst

/-- Settles O55: both states end as `execWith_public` fixes it. -/
theorem outcomeIndependentOfData : Obligations.OutcomeIndependentOfData := by
  unfold Obligations.OutcomeIndependentOfData
  intro i s s' hst
  obtain ⟨st, code, hends⟩ := execWith_public i s'.status
  obtain ⟨t, r, ht, hstatus, hrsp, hcode⟩ := hends Config.delta s hst
  obtain ⟨t', r', ht', hstatus', hrsp', hcode'⟩ := hends Config.delta s' rfl
  rw [execWith_default] at ht ht'
  refine ⟨t, t', ht, ht', hstatus.trans hstatus'.symm, ?_⟩
  simp [hrsp, hrsp', hcode, hcode']

/-! ## What an observer sees of the port (R122, R124) -/

/-- Two blocks with the same public part agree in `STATUS`, and are both idle or both as far from answering the same code. -/
theorem PortState.control_eq_cases {p p' : PortState} (h : p.control = p'.control) :
    p.core.status = p'.core.status ∧ ((p.inFlight = none ∧ p'.inFlight = none) ∨
      ∃ left r r', p.inFlight = some ⟨left, r⟩ ∧ p'.inFlight = some ⟨left, r'⟩ ∧ r.err = r'.err) := by
  obtain ⟨core, inFlight⟩ := p
  obtain ⟨core', inFlight'⟩ := p'
  obtain ⟨hstatus, hflight⟩ := Prod.mk.inj h
  refine ⟨hstatus, ?_⟩
  cases inFlight with
  | none =>
    cases inFlight' with
    | none => exact .inl ⟨rfl, rfl⟩
    | some f' => cases hflight
  | some f =>
    cases inFlight' with
    | none => cases hflight
    | some f' =>
      obtain ⟨hleft, hcode⟩ := Prod.mk.inj (Option.some.inj hflight)
      exact .inr ⟨f.left, f.rsp, f'.rsp, rfl, by rw [hleft], hcode⟩

/-- A cycle's public outputs are fixed by the public part of the block and of the inputs. -/
theorem portOut_control {p p' : PortState} {inp inp' : PortIn} (hp : p.control = p'.control)
    (hinp : inp.control = inp'.control) : (portOut p inp).control = (portOut p' inp').control := by
  have hrst : inp.rst = inp'.rst := congrArg (·.1) hinp
  obtain ⟨-, ⟨hidle, hidle'⟩ | ⟨left, r, r', hflight, hflight', hcode⟩⟩ := PortState.control_eq_cases hp
  · simp only [portOut, hrst, hidle, hidle']
  · simp only [portOut, hrst, hflight, hflight']
    split_ifs
    · rfl
    · simp [PortOut.control, hcode]
    · rfl

/-- The latency looks at the command word, at `STATUS` before, and at whether the command fails. -/
theorem latencyOf_congr (C : BitVec 16) (st : Status) {r r' : Response} (hcode : r.err = r'.err) :
    latencyOf C st r = latencyOf C st r' := by
  simp only [latencyOf, hcode]

/-- Accepting the same command word in idle blocks with the same `STATUS` puts responses with the same code in flight, to
come after the same number of cycles. -/
theorem portEdge_accept_control (delta : Vector Word 8) {p p' : PortState} (hstatus : p.core.status = p'.core.status)
    (hidle : p.inFlight = none) (hidle' : p'.inFlight = none) (C : BitVec 16) (d d' : Word) :
    ∃ q q', portEdge delta p ⟨false, true, C, d⟩ = .next q ∧ portEdge delta p' ⟨false, true, C, d'⟩ = .next q' ∧
      q.control = q'.control := by
  obtain ⟨st, code, hends⟩ := runCommand_public C p'.core.status
  obtain ⟨t, r, hrun, hst, hrsp, hcode⟩ := hends delta d p.core hstatus
  obtain ⟨t', r', hrun', hst', hrsp', hcode'⟩ := hends delta d' p'.core rfl
  have hsame : r.err = r'.err := hcode.trans hcode'.symm
  refine ⟨_, _, portEdge_accept hidle hrun hrsp, portEdge_accept hidle' hrun' hrsp', ?_⟩
  simp [PortState.control, hst, hst', hstatus, latencyOf_congr C p'.core.status hsame, hsame]

/-- The public part of the block after a rising edge is fixed by the public part before it and that of the inputs. -/
theorem portEdge_control (delta : Vector Word 8) {p p' : PortState} {inp inp' : PortIn} (hp : p.control = p'.control)
    (hinp : inp.control = inp'.control) :
    ∃ q q', portEdge delta p inp = .next q ∧ portEdge delta p' inp' = .next q' ∧ q.control = q'.control := by
  obtain ⟨rst, valid, C, d⟩ := inp
  obtain ⟨rst', valid', C', d'⟩ := inp'
  cases hinp
  cases rst with
  | true => exact ⟨_, _, rfl, rfl, rfl⟩
  | false =>
    obtain ⟨hstatus, ⟨hidle, hidle'⟩ | ⟨left, r, r', hflight, hflight', hcode⟩⟩ := PortState.control_eq_cases hp
    · cases valid with
      | true => exact portEdge_accept_control delta hstatus hidle hidle' C d d'
      | false => exact ⟨p, p', by simp [portEdge, hidle], by simp [portEdge, hidle'], hp⟩
    · simp only [portEdge, hflight, hflight']
      refine ⟨_, _, rfl, rfl, ?_⟩
      cases left with
      | zero => simp [PortState.control, hstatus]
      | succ left => simp [PortState.control, hstatus, hcode]

/-- Settles O58, by induction on the run of cycles. -/
theorem timingIndependentOfData : Obligations.TimingIndependentOfData := by
  unfold Obligations.TimingIndependentOfData
  intro delta p p' ins ins' hp hins
  induction ins generalizing p p' ins' with
  | nil =>
    obtain rfl : ins' = [] := List.map_eq_nil_iff.mp hins.symm
    rfl
  | cons inp ins ih =>
    obtain ⟨inp', rest', rfl, hinp, hrest⟩ := List.map_eq_cons_iff.mp hins.symm
    obtain ⟨q, q', hedge, hedge', hq⟩ := portEdge_control delta hp hinp.symm
    simp only [portTrace, hedge, hedge', List.map_cons]
    rw [portOut_control hp hinp.symm, ih q q' rest' hq hrest.symm]

end Sys2Proof.Machine
end

section
/-! PROOFS. The decoder and the encoder in both directions (`30_encoding.md` R43 to R46). A word that a row of the opcode map
matches has the row's match value outside the fields, so that match value with the operands put back is the word
(`append_lastField`, `append_firstField_lastField`). Statements O1 and O4. -/

namespace Sys2Proof.Machine

/-! ## A word from its match value and its fields -/

section
variable {n m k : Nat}

/-- A word of a format with one field: the bits that the mask keeps, and the field put back. -/
theorem append_lastField {C : BitVec (n + m)} {x : BitVec n} (h : C &&& (BitVec.allOnes n ++ 0#m) = x ++ 0#m) :
    x ++ C.extractLsb' 0 m = C := by
  have hsplit : C.extractLsb' m n ++ C.extractLsb' 0 m = C := BitVec.extractLsb'_append_extractLsb'
  rw [← hsplit, append_and_mask, append_inj_iff] at h
  rw [← h.1, hsplit]

/-- A word of a format with two fields: the bits that the mask keeps, and both fields put back. -/
theorem append_firstField_lastField {C : BitVec (n + m + k)} {x : BitVec n}
    (h : C &&& (BitVec.allOnes n ++ 0#m ++ 0#k) = x ++ 0#m ++ 0#k) :
    x ++ C.extractLsb' k m ++ C.extractLsb' 0 k = C := by
  have hsplit : C.extractLsb' k (n + m) ++ C.extractLsb' 0 k = C := BitVec.extractLsb'_append_extractLsb'
  have hupper : C.extractLsb' k (n + m) &&& (BitVec.allOnes n ++ 0#m) = x ++ 0#m := by
    rw [← hsplit, BitVec.and_append, append_inj_iff] at h
    exact h.1
  have hfirst : (C.extractLsb' k (n + m)).extractLsb' 0 m = C.extractLsb' k m := by
    ext b hb
    simp only [BitVec.getElem_extractLsb', BitVec.getLsbD_extractLsb', Nat.zero_add]
    rw [decide_eq_true (by omega : b < n + m), Bool.true_and]
  rw [← hfirst, append_lastField hupper, hsplit]

end

/-- Encoding undoes decoding: by its row of the opcode map (O2) the word has the match value of the command outside the fields,
and the operands are its fields. -/
theorem encode_of_decode {C : BitVec 16} {i : Instr} (h : decode C = .ok i) : encode i = C := by
  obtain ⟨hnop, hrdst, hclre, hwrkb, hrdkb, hwrbb, hrdbb, hwrx, hrdx, hwrrk, hrdrk, hldrk, hrdsk, hb2w, hw2b, hrol, hror,
    hksched, hencr, hdecr, hencb, hdecb⟩ := opcodeMapIsTheTable C
  cases i with
  | nop => exact (hnop.mp h).symm.trans BitVec.and_allOnes
  | rdst => exact (hrdst.mp h).symm.trans BitVec.and_allOnes
  | clre => exact (hclre.mp h).symm.trans BitVec.and_allOnes
  | encr => exact (hencr.mp h).symm.trans BitVec.and_allOnes
  | decr => exact (hdecr.mp h).symm.trans BitVec.and_allOnes
  | encb => exact (hencb.mp h).symm.trans BitVec.and_allOnes
  | decb => exact (hdecb.mp h).symm.trans BitVec.and_allOnes
  | wrkb a => obtain ⟨hword, rfl⟩ := (hwrkb a).mp h; exact append_lastField hword
  | rdkb a => obtain ⟨hword, rfl⟩ := (hrdkb a).mp h; exact append_lastField hword
  | wrbb a => obtain ⟨hword, rfl⟩ := (hwrbb a).mp h; exact append_lastField hword
  | rdbb a => obtain ⟨hword, rfl⟩ := (hrdbb a).mp h; exact append_lastField hword
  | wrx j => obtain ⟨hword, rfl⟩ := (hwrx j).mp h; exact append_lastField hword
  | rdx j => obtain ⟨hword, rfl⟩ := (hrdx j).mp h; exact append_lastField hword
  | wrrk k => obtain ⟨hword, rfl⟩ := (hwrrk k).mp h; exact append_lastField hword
  | rdrk k => obtain ⟨hword, rfl⟩ := (hrdrk k).mp h; exact append_lastField hword
  | ldrk i => obtain ⟨hword, rfl⟩ := (hldrk i).mp h; exact append_lastField hword
  | b2w j => obtain ⟨hword, rfl⟩ := (hb2w j).mp h; exact append_lastField hword
  | w2b j => obtain ⟨hword, rfl⟩ := (hw2b j).mp h; exact append_lastField hword
  | rdsk i k => obtain ⟨hword, rfl, rfl⟩ := (hrdsk i k).mp h; exact append_firstField_lastField hword
  | rol j r => obtain ⟨hword, rfl, rfl⟩ := (hrol j r).mp h; exact append_firstField_lastField hword
  | ror j r => obtain ⟨hword, rfl, rfl⟩ := (hror j r).mp h; exact append_firstField_lastField hword
  | ksched klen dir => obtain ⟨hword, rfl, rfl⟩ := (hksched klen dir).mp h; exact append_firstField_lastField hword

/-- Settles O1: decoding undoes encoding and encoding undoes decoding. -/
theorem decodeAndEncodeAgree : Obligations.DecodeAndEncodeAgree := by
  unfold Obligations.DecodeAndEncodeAgree
  exact ⟨decode_encode, fun _ _ => encode_of_decode⟩

/-! ## Words of the encoding vectors -/

/-- A table's word that is the encoding of a command is read as that command. -/
theorem decodeTableWord_of_encode {nbits w : Nat} {i : Instr} (h : encode i = tableWord nbits w) :
    decodeTableWord nbits w = some i :=
  decodeTableWord_eq_some.mpr (h ▸ decode_encode i)

/-- A table's word that is illegal is read as no command. -/
theorem decodeTableWord_of_decode_error {nbits w : Nat} {e : DecodeError} (h : decode (tableWord nbits w) = .error e) :
    decodeTableWord nbits w = none := by
  simp [decodeTableWord, h]

/-- Settles O4: five of the words are encodings; of the two illegal ones, the first has a reserved bit set (WRBB's `C[4]`)
and the second a reserved opcode. -/
theorem tableWordsDecode : Obligations.TableWordsDecode := by
  unfold Obligations.TableWordsDecode
  refine ⟨decodeTableWord_of_encode rfl, decodeTableWord_of_encode rfl, decodeTableWord_of_encode rfl,
    decodeTableWord_of_encode rfl, decodeTableWord_of_encode rfl, ?reservedBit, ?reservedOpcode⟩
  case reservedBit =>
    exact decodeTableWord_of_decode_error (decode_eq_error_iff_opcode.mpr (.inr ⟨by decide, by decide, rfl⟩))
  case reservedOpcode =>
    exact decodeTableWord_of_decode_error (decode_eq_error_iff_opcode.mpr (.inl ⟨by decide, rfl⟩))

end Sys2Proof.Machine
end
